-- ==== Sys2Proof/Word.lean ====
section
/-! DEFINITION. The word types of the hardware: 00_scope.md R6 and R10 (`W` = 32, a byte is 8 bits), 30_encoding.md R61 (a register field is 4 bits). -/

namespace Sys2Proof

/-- A word: every register, coordinate, command and host access is `W` = 32 bits wide (R6, R10). -/
abbrev Word := BitVec 32

/-- A byte is 8 bits; a byte string is a list with its first byte first (R10). -/
abbrev Byte := BitVec 8

/-- A register field of a command word: 4 bits, of which the values 0 to 3 name a register (R61). -/
abbrev RegField := BitVec 4

/-- The index of one of the four integer or four point registers (`NX` = `NPT` = 4, R6). -/
abbrev RegIndex := Fin 4

end Sys2Proof
end

