-- ==== Sys2Proof/Config.lean ====
section
/-! DEFINITION. What is fixed for the life of the hardware (00_scope.md R14): the curve record (R5) and the open parameter HASH (R7, 43_kdf.md R111). -/

namespace Sys2Proof

/-- The curve parameters of R5: the curve is y^2 = x^3 + A*x + B modulo P with generator (Gx, Gy). The pure functions take the
record as an argument, so a claim about them can be stated for every record. -/
structure CurveParams where
  /-- prime modulus -/
  P : Nat
  /-- coefficient of x -/
  A : Nat
  /-- constant coefficient, used by the on-curve predicate only -/
  B : Nat
  /-- x-coordinate of the generator -/
  Gx : Nat
  /-- y-coordinate of the generator -/
  Gy : Nat
  deriving DecidableEq, Repr

/-- R5: "Constraints the configuration must meet": `1 <= P < 2^(W-1)` and the other values in `[0, P)`. -/
def CurveParams.wellFormed (c : CurveParams) : Bool :=
  decide (1 ≤ c.P) && decide (c.P < 2 ^ 31) && decide (c.A < c.P) && decide (c.B < c.P) && decide (c.Gx < c.P) && decide (c.Gy < c.P)

/-- The hash of the key-derivation unit (R7): a total function from byte strings to byte strings of the fixed length
`HASH_BYTES` = 8 + `extra`. R7 asks for `2 * HASH_BYTES >= 16`, which is `HASH_BYTES >= 8`. -/
structure HashFn where
  /-- `HASH_BYTES` - 8 -/
  extra : Nat
  /-- the digest of a byte string -/
  digest : List Byte → Vector Byte (8 + extra)

/-- The values hardwired in this hardware (R5): P = 101, A = 35, B = 3, G = (2, 9). Assumption log 5. -/
def Config.curve : CurveParams := { P := 101, A := 35, B := 3, Gx := 2, Gy := 9 }

/-- `KMAX` = 2^(W-1) - 1, the largest scalar SMUL accepts (R6). -/
def Config.kmax : Nat := 2147483647

/-- `HASH_BYTES` - 8, where `HASH_BYTES >= 8` is an open parameter (R7). FREE VALUE, assumption log 4. -/
opaque Config.hashExtra : Nat

/-- `HASH` (R7, R111) is an open parameter: an uninterpreted function, so nothing can be proved of its values. FREE VALUE,
assumption log 4. SHA-256 is only recommended by the spec and is not assumed. -/
opaque Config.hashDigest : List Byte → Vector Byte (8 + Config.hashExtra)

/-- The hash of this hardware: both of its parts are free values. -/
def Config.hash : HashFn := { extra := Config.hashExtra, digest := Config.hashDigest }

end Sys2Proof
end

