-- ==== Sys2Proof/Syntax.lean ====
section
/-! DEFINITION. The commands: one constructor per row of spec/opcode_table.json, with the register fields the command uses (30_encoding.md R62). -/

namespace Sys2Proof

/-- A command as the assembler writes it. Each operand is a 4-bit register field; whether it names an integer register or a
point register is fixed by the command (R62), and which values are legal is `Instr.wellFormed` (R64). -/
inductive Instr where
  /-- `MODINV rd, ra, rm` (R84): integer registers. -/
  | modinv (rd ra rm : RegField)
  /-- `PADD pd, ps1, ps2` (R95): point registers. -/
  | padd (pd ps1 ps2 : RegField)
  /-- `PDBL pd, ps1` (R96): point registers. -/
  | pdbl (pd ps1 : RegField)
  /-- `SMUL pd, ps1, rk` (R101): point registers `pd`, `ps1`, integer register `rk`. -/
  | smul (pd ps1 rk : RegField)
  /-- `KDF ps1` (R116): a point register; the destinations are implicit. -/
  | kdf (ps1 : RegField)
  /-- `LDG pd` (R97): a point register. -/
  | ldg (pd : RegField)
  deriving DecidableEq, Repr

end Sys2Proof
end

