-- ==== Sys2Proof/WellFormed.lean ====
section
/-! DEFINITION. When a command is legal: every register field it uses holds 0 to 3 (30_encoding.md R61, R64). -/

namespace Sys2Proof

/-- A field a command uses is legal when it holds 0 to 3; 4 to 15 are illegal (R64). -/
def RegField.legal (r : RegField) : Bool := decide (r.toNat < 4)

/-- A command is well formed when every register field it uses is legal (R64). The fields it does not use are not part of its
syntax; they are 0 in its encoding (R61). -/
def Instr.wellFormed : Instr → Bool
  | .modinv rd ra rm => RegField.legal rd && RegField.legal ra && RegField.legal rm
  | .padd pd ps1 ps2 => RegField.legal pd && RegField.legal ps1 && RegField.legal ps2
  | .pdbl pd ps1 => RegField.legal pd && RegField.legal ps1
  | .smul pd ps1 rk => RegField.legal pd && RegField.legal ps1 && RegField.legal rk
  | .kdf ps1 => RegField.legal ps1
  | .ldg pd => RegField.legal pd

end Sys2Proof
end

