-- ==== Sys2Proof/Decode.lean ====
section
/-! DEFINITION. Decoding and encoding of command words: 30_encoding.md R60 to R67. -/

namespace Sys2Proof

/-- `op = w[7:0]` (R61). -/
def fieldOp (w : Word) : BitVec 8 := w.extractLsb' 0 8

/-- `rd = w[11:8]` (R61). -/
def fieldRd (w : Word) : RegField := w.extractLsb' 8 4

/-- `rs1 = w[15:12]` (R61). -/
def fieldRs1 (w : Word) : RegField := w.extractLsb' 12 4

/-- `rs2 = w[19:16]` (R61). -/
def fieldRs2 (w : Word) : RegField := w.extractLsb' 16 4

/-- `zero = w[31:20]` (R61). -/
def fieldZero (w : Word) : BitVec 12 := w.extractLsb' 20 12

/-- One row of the opcode map (R63): a word `w` is the command exactly when `(w AND mask) = match`. -/
structure OpcodeRow where
  mnemonic : String
  mask : Word
  pattern : Word
  deriving DecidableEq, Repr

/-- `(w AND mask) = match` (R63). -/
def OpcodeRow.holds (r : OpcodeRow) (w : Word) : Bool := w &&& r.mask == r.pattern

/-- The six rows of R63. -/
def rowModinv : OpcodeRow := { mnemonic := "MODINV", mask := 0xFFFCCCFF#32, pattern := 0x00000001#32 }
/-- R63, `op` = 0x02. -/
def rowPadd : OpcodeRow := { mnemonic := "PADD", mask := 0xFFFCCCFF#32, pattern := 0x00000002#32 }
/-- R63, `op` = 0x03. -/
def rowPdbl : OpcodeRow := { mnemonic := "PDBL", mask := 0xFFFFCCFF#32, pattern := 0x00000003#32 }
/-- R63, `op` = 0x04. -/
def rowSmul : OpcodeRow := { mnemonic := "SMUL", mask := 0xFFFCCCFF#32, pattern := 0x00000004#32 }
/-- R63, `op` = 0x05. -/
def rowKdf : OpcodeRow := { mnemonic := "KDF", mask := 0xFFFFCFFF#32, pattern := 0x00000005#32 }
/-- R63, `op` = 0x06. -/
def rowLdg : OpcodeRow := { mnemonic := "LDG", mask := 0xFFFFFCFF#32, pattern := 0x00000006#32 }

/-- The opcode map of R63. -/
def opcodeMap : List OpcodeRow := [rowModinv, rowPadd, rowPdbl, rowSmul, rowKdf, rowLdg]

/-- Why a word is illegal: the four grounds of R64. All of them raise the one error kind IllegalCommand. -/
inductive IllegalWord where
  /-- `w[31:20]` is not 0 -/
  | zeroField
  /-- `op` is 0x00 or from 0x07 to 0xFF -/
  | opcode
  /-- a register field the command uses holds 4 to 15 -/
  | registerIndex
  /-- a register field the command does not use is not 0 -/
  | unusedField
  deriving DecidableEq, Repr

/-- Whether the fields a word's command uses are all legal register indexes, by opcode (R62). -/
def usedFieldsLegal (w : Word) : Bool :=
  match (fieldOp w).toNat with
  | 1 | 2 | 4 => RegField.legal (fieldRd w) && RegField.legal (fieldRs1 w) && RegField.legal (fieldRs2 w)
  | 3 => RegField.legal (fieldRd w) && RegField.legal (fieldRs1 w)
  | 5 => RegField.legal (fieldRs1 w)
  | 6 => RegField.legal (fieldRd w)
  | _ => false

/-- The name of the ground on which a word that matches no row is illegal (R64). -/
def illegalReason (w : Word) : IllegalWord :=
  if fieldZero w ≠ 0#12 then .zeroField
  else if (fieldOp w).toNat = 0 ∨ 7 ≤ (fieldOp w).toNat then .opcode
  else if usedFieldsLegal w = false then .registerIndex
  else .unusedField

/-- Decode, total over all 2^32 words, in the order of R66's dispatch. A word that matches none of the six rows is illegal, and
the decoder names the ground. -/
def decode (w : Word) : Except IllegalWord Instr :=
  if rowModinv.holds w then .ok (.modinv (fieldRd w) (fieldRs1 w) (fieldRs2 w))
  else if rowPadd.holds w then .ok (.padd (fieldRd w) (fieldRs1 w) (fieldRs2 w))
  else if rowPdbl.holds w then .ok (.pdbl (fieldRd w) (fieldRs1 w))
  else if rowSmul.holds w then .ok (.smul (fieldRd w) (fieldRs1 w) (fieldRs2 w))
  else if rowKdf.holds w then .ok (.kdf (fieldRs1 w))
  else if rowLdg.holds w then .ok (.ldg (fieldRd w))
  else .error (illegalReason w)

/-- The opcode byte of a command (R63). -/
def Instr.opcode : Instr → BitVec 8
  | .modinv _ _ _ => 0x01#8
  | .padd _ _ _ => 0x02#8
  | .pdbl _ _ => 0x03#8
  | .smul _ _ _ => 0x04#8
  | .kdf _ => 0x05#8
  | .ldg _ => 0x06#8

/-- What a command puts in `w[11:8]`: its destination, or 0 where it uses none (R62). -/
def Instr.rdField : Instr → RegField
  | .modinv rd _ _ => rd
  | .padd pd _ _ => pd
  | .pdbl pd _ => pd
  | .smul pd _ _ => pd
  | .kdf _ => 0#4
  | .ldg pd => pd

/-- What a command puts in `w[15:12]`: its first source, or 0 where it uses none (R62). -/
def Instr.rs1Field : Instr → RegField
  | .modinv _ ra _ => ra
  | .padd _ ps1 _ => ps1
  | .pdbl _ ps1 => ps1
  | .smul _ ps1 _ => ps1
  | .kdf ps1 => ps1
  | .ldg _ => 0#4

/-- What a command puts in `w[19:16]`: its second source, or 0 where it uses none (R62). -/
def Instr.rs2Field : Instr → RegField
  | .modinv _ _ rm => rm
  | .padd _ _ ps2 => ps2
  | .pdbl _ _ => 0#4
  | .smul _ _ rk => rk
  | .kdf _ => 0#4
  | .ldg _ => 0#4

/-- A word from its five fields, `zero` in the high bits (the picture of R61). -/
def assemble (rs2 rs1 rd : RegField) (op : BitVec 8) : Word := 0#12 ++ rs2 ++ rs1 ++ rd ++ op

/-- `w = (rs2 << 16) OR (rs1 << 12) OR (rd << 8) OR op` (R63). -/
def encode (i : Instr) : Word := assemble i.rs2Field i.rs1Field i.rdField i.opcode

/-- The table's word as the decoder sees it: a command is one 32-bit word (R60), so the bits above `nbits` are 0 and the word
is `w`. -/
def tableWord (nbits w : Nat) : Word := BitVec.ofNat 32 (w % 2 ^ nbits)

/-- The instruction the decoder reads from a word of the opcode table; none where it refuses. -/
def decodeTableWord (nbits w : Nat) : Option Instr :=
  match decode (tableWord nbits w) with
  | .ok i => some i
  | .error _ => none

/-- A register index in decimal; the legal ones are one digit. -/
def RegField.digits (r : RegField) : String := toString r.toNat

/-- An integer register in assembler syntax (R67). -/
def RegField.asmX (r : RegField) : String := "x" ++ RegField.digits r

/-- A point register in assembler syntax (R67). -/
def RegField.asmPt (r : RegField) : String := "pt" ++ RegField.digits r

/-- Assembler syntax (R67): mnemonic, a space, and the operands separated by a comma and a space, destination first. -/
def Instr.asm : Instr → String
  | .modinv rd ra rm => "MODINV " ++ RegField.asmX rd ++ ", " ++ RegField.asmX ra ++ ", " ++ RegField.asmX rm
  | .padd pd ps1 ps2 => "PADD " ++ RegField.asmPt pd ++ ", " ++ RegField.asmPt ps1 ++ ", " ++ RegField.asmPt ps2
  | .pdbl pd ps1 => "PDBL " ++ RegField.asmPt pd ++ ", " ++ RegField.asmPt ps1
  | .smul pd ps1 rk => "SMUL " ++ RegField.asmPt pd ++ ", " ++ RegField.asmPt ps1 ++ ", " ++ RegField.asmX rk
  | .kdf ps1 => "KDF " ++ RegField.asmPt ps1
  | .ldg pd => "LDG " ++ RegField.asmPt pd

end Sys2Proof
end

