-- ==== Sys2Proof/Machine/State.lean ====
section
/-! DEFINITION. The state of the hardware (10_state.md R20), the outside world it meets (00_scope.md R13), the error kinds (60_exceptions.md R120), the reset state (10_state.md R32), and the reasons a step can stop. -/

namespace Sys2Proof.Machine

/-- A Point value (R12): the distinguished `Identity`, or `Affine(x, y)` with integer coordinates. `Affine(0, 0)` and `Identity`
are different values. -/
inductive Point where
  | identity
  | affine (x y : Int)
  deriving DecidableEq, Repr

/-- The error kinds of the hardware (R120). -/
inductive ErrorKind where
  /-- code 1: `gcd(a, p)` is not 1, or `p` = 0 -/
  | noInverseExists
  /-- code 2: SMUL with a negative scalar -/
  | invalidScalar
  /-- code 3: the command word matches no pattern -/
  | illegalCommand
  /-- code 4: a source point register holds an Affine point with a coordinate `>= P` -/
  | operandRange
  /-- code 5: KDF of `Identity` -/
  | kdfIdentity
  deriving DecidableEq, Repr

/-- A point register (R22): the stored tag bit `INF` and two coordinate words. -/
structure PointReg where
  inf : Bool
  x : Word
  y : Word
  deriving DecidableEq, Repr

/-- What STATUS stores (R20, R25): four flags and the 4-bit `ERRCODE`. The other bits read as 0 (`Status.word`). -/
structure Status where
  busy : Bool
  done : Bool
  err : Bool
  ovr : Bool
  errCode : BitVec 4
  deriving DecidableEq, Repr

/-- One host access (R11): an offset relative to the window's base, a size in bytes and, for a write, the word written. The
only size that is not a bus error is 4 (R42); of another size the data plays no part. -/
inductive Access where
  /-- `MemRead(addr, size)` -/
  | read (addr size : Nat)
  /-- `MemWrite(addr, size, v)` -/
  | write (addr size : Nat) (v : Word)
  deriving DecidableEq, Repr

/-- What an access returns (R11, R44, R45). -/
inductive BusResponse where
  /-- a read's `ok(v)` -/
  | data (v : Word)
  /-- a write's `ok` -/
  | ok
  /-- `buserror` (R42) -/
  | buserror
  deriving DecidableEq, Repr

/-- One operation of the host's program: a single access, or the polling loop WAIT of R68. -/
inductive HostOp where
  | access (a : Access)
  /-- `MemRead(0x00, 4)` until the value has `BUSY` = 0; with `endOnError`, a final value with `ERR` = 1 ends the whole program
  (R106: "Any step that ends with `STATUS.ERR` = 1 ends the sequence with that error") -/
  | wait (endOnError : Bool)
  deriving DecidableEq, Repr

/-- Who takes a turn (R13), the reset input among them (R140). -/
inductive Agent where
  | host
  | engine
  | reset
  deriving DecidableEq, Repr

/-- The outside of the hardware, held as plain data (assumption log 1): none of it is a register of the hardware. -/
structure Env where
  /-- what the host will still do, in the order its program issues it (R48) -/
  program : List HostOp
  /-- whose turn comes next; empty means that the engine moves while `BUSY` = 1 and the host otherwise (assumption log 2) -/
  turns : List Agent
  /-- what the last host access returned; none before the first -/
  response : Option BusResponse
  deriving DecidableEq, Repr

/-- The complete state: the registers of R20, and the model's own `env`. The `PARAM_*` registers are constants of the
configuration (R14, R28) and the working values of a running command are empty between steps (R31). -/
structure State where
  /-- `x0`..`x3` (R21) -/
  x : Vector Word 4
  /-- `pt0`..`pt3` (R22) -/
  pt : Vector PointReg 4
  /-- `IV0`..`IV3` (R24) -/
  iv : Vector Word 4
  /-- `KEY0`..`KEY3` (R24) -/
  key : Vector Word 4
  /-- `STATUS` (R25) -/
  status : Status
  /-- `CMD` (R26): the last accepted command word -/
  cmd : Word
  /-- `ERRCMD` (R27): the word of the most recent failed command -/
  errcmd : Word
  /-- the model's own: the outside world -/
  env : Env
  deriving DecidableEq, Repr

/-- Reasons the machine stops with a fault. There is none: a failing command is a next state (R124), a bus error is the answer
of one access and changes nothing (R42, R129), and an idle hardware keeps its state (R132). Assumption log 13. -/
inductive Fault where
  deriving DecidableEq, Repr

/-- Reasons a step has no meaning. -/
inductive Refusal where
  /-- Raised by `exec` for an instruction without a meaning; no arm raises it, every command has its meaning. Safe. -/
  | notModelled (mnemonic : String)
  deriving DecidableEq, Repr

/-- A point register holding the canonical `Identity`: tag 1, coordinates 0 (R23, R32). -/
def PointReg.cleared : PointReg := { inf := true, x := 0#32, y := 0#32 }

/-- STATUS after reset: all 0 (R25, R32). -/
def Status.reset : Status := { busy := false, done := false, err := false, ovr := false, errCode := 0#4 }

/-- Nothing outside has been placed: no host program, no turns, no answer yet (assumption log 1). -/
def Env.quiet : Env := { program := [], turns := [], response := none }

/-- The state right after reset (R32, R140): every writable bit 0 except the four tag bits, which are 1. -/
def State.reset : State :=
  { x := #v[0#32, 0#32, 0#32, 0#32]
    pt := #v[PointReg.cleared, PointReg.cleared, PointReg.cleared, PointReg.cleared]
    iv := #v[0#32, 0#32, 0#32, 0#32]
    key := #v[0#32, 0#32, 0#32, 0#32]
    status := Status.reset
    cmd := 0#32
    errcmd := 0#32
    env := Env.quiet }

end Sys2Proof.Machine
end

