-- ==== Sys2Proof/Machine/Flags.lean ====
section
/-! DEFINITION. STATUS: its word, and everything that sets or clears a flag (10_state.md R25, R30; 20_memory.md R45, R46, R50; 60_exceptions.md R120, R124). There are no arithmetic condition codes (R30). -/

namespace Sys2Proof.Machine

/-- The code of an error kind in `STATUS.ERRCODE` (R120). Codes 6 to 15 are never produced. -/
def ErrorKind.code : ErrorKind → BitVec 4
  | .noInverseExists => 1#4
  | .invalidScalar => 2#4
  | .illegalCommand => 3#4
  | .operandRange => 4#4
  | .kdfIdentity => 5#4

/-- A flag as one bit. -/
def flagBit (b : Bool) : BitVec 1 := BitVec.ofBool b

/-- STATUS as the host reads it (R25): `ERRCODE` in bits 11:8, `OVR`, `ERR`, `DONE`, `BUSY` in bits 3 to 0, every other bit 0. -/
def Status.word (st : Status) : Word :=
  0#20 ++ st.errCode ++ 0#4 ++ flagBit st.ovr ++ flagBit st.err ++ flagBit st.done ++ flagBit st.busy

/-- Acceptance of a command (R45): `BUSY` <- 1, `DONE` <- 0. -/
def Status.accepted (st : Status) : Status := { st with busy := true, done := false }

/-- A completion that succeeds (R50): `DONE` <- 1, `BUSY` <- 0. -/
def Status.succeeded (st : Status) : Status := { st with busy := false, done := true }

/-- A completion that raises `e` (R124): `ERR` <- 1, `ERRCODE` <- code(e), `BUSY` <- 0; `DONE` and `OVR` unchanged. -/
def Status.failed (st : Status) (e : ErrorKind) : Status := { st with busy := false, err := true, errCode := e.code }

/-- A dropped write (R46): `OVR` <- 1. -/
def Status.dropped (st : Status) : Status := { st with ovr := true }

/-- The host clears `ERR` (R126): nothing else changes. -/
def Status.errCleared (st : Status) : Status := { st with err := false }

/-- A host write to STATUS (R45): a 1 in bit 3 clears `OVR`; a 1 in bit 2 clears `ERR` while `BUSY` = 0; all other bits of the
written word are ignored. -/
def Status.hostWrite (st : Status) (v : Word) : Status :=
  { st with
    ovr := st.ovr && !v.getLsbD 3
    err := st.err && !(v.getLsbD 2 && !st.busy) }

/-- A command is accepted when `BUSY` = 0 and `ERR` = 0 (R45). -/
def Status.accepts (st : Status) : Bool := !st.busy && !st.err

end Sys2Proof.Machine
end

