-- ==== Sys2Proof/Machine/Operands.lean ====
section
/-! DEFINITION. How bits are read as numbers and points and written back: 00_scope.md R9, R10, 10_state.md R23, the register index of 30_encoding.md R64, the range check of 41_point_algebra.md R91. -/

namespace Sys2Proof.Machine

/-- `emod(a, m)` (R9, R80): the Euclidean remainder, in `[0, m)` for `m > 0` and every integer `a`. Lean's `%` on `Int` is
that remainder; `m` = 0, which R9 leaves out, gives `a` (assumption log 18). -/
def emod (a : Int) (m : Nat) : Int := a % (m : Int)

/-- `uint(v)` (R10). -/
def uint (v : Word) : Nat := v.toNat

/-- `sint(v) = uint(v) - 2^32 * v[31]` (R10): two's complement. -/
def sint (v : Word) : Int := v.toInt

/-- `zext_32(n)` (R10): the word whose `uint` is `n`, for `0 <= n < 2^32`; modulo 2^32 outside (assumption log 18). -/
def zext32 (n : Int) : Word := BitVec.ofInt 32 n

/-- `sext_32(n)` (R10): the word whose `sint` is `n`, for `-2^31 <= n < 2^31`; modulo 2^32 outside (assumption log 18). -/
def sext32 (n : Int) : Word := BitVec.ofInt 32 n

/-- The register a field names; a field holding 4 to 15 is illegal, and the command raises IllegalCommand before any register
is read (R64, R123). A decoded command never has such a field (assumption log 6). -/
def fieldIndex (r : RegField) : Except ErrorKind RegIndex :=
  if h : r.toNat < 4 then .ok ⟨r.toNat, h⟩ else .error .illegalCommand

/-- The field that names a register. -/
def indexField (i : RegIndex) : RegField := BitVec.ofNat 4 i.val

/-- `pt[i]` read as a Point value (R23): the tag alone decides `Identity`; the coordinates are unsigned. -/
def PointReg.point (r : PointReg) : Point :=
  if r.inf then .identity else .affine (uint r.x) (uint r.y)

/-- `pt[i] <- Q` (R23): `Identity` is stored with both coordinates 0. -/
def PointReg.ofPoint : Point → PointReg
  | .identity => PointReg.cleared
  | .affine x y => { inf := false, x := zext32 x, y := zext32 y }

/-- An Affine value is in range when `0 <= x < P` and `0 <= y < P` (R12); `Identity` always passes (R91). -/
def Point.inRange (c : CurveParams) : Point → Bool
  | .identity => true
  | .affine x y => decide (0 ≤ x) && decide (x < c.P) && decide (0 ≤ y) && decide (y < c.P)

/-- The range check of R91: `OperandRange` when a coordinate is `>= P`. -/
def checkRange (c : CurveParams) : Point → Except ErrorKind Unit
  | .identity => .ok ()
  | .affine x y => if x ≥ c.P ∨ y ≥ c.P then .error .operandRange else .ok ()

end Sys2Proof.Machine
end

