-- ==== Sys2Proof/Machine/Ops.lean ====
section
/-! DEFINITION. The named operations over the registers, and the two ends of a command: its results (20_memory.md R50) and the error entry with its return (60_exceptions.md R124, R126). The hardware has no memory beside its registers (20_memory.md R40). -/

namespace Sys2Proof.Machine

/-- `x[i]` (R11, R21). -/
def State.readX (s : State) (i : RegIndex) : Word := s.x[i.val]

/-- `x[i] <- v` (R11). -/
def State.writeX (s : State) (i : RegIndex) (v : Word) : State := { s with x := s.x.set i.val v }

/-- The three parts of `pt[i]` (R22). -/
def State.readPtReg (s : State) (i : RegIndex) : PointReg := s.pt[i.val]

/-- All parts of `pt[i]` at once. -/
def State.writePtReg (s : State) (i : RegIndex) (r : PointReg) : State := { s with pt := s.pt.set i.val r }

/-- `pt[i]` as a Point value (R23). -/
def State.readPt (s : State) (i : RegIndex) : Point := (s.readPtReg i).point

/-- `pt[i] <- Q` by a command (R23): the three parts change together. -/
def State.writePt (s : State) (i : RegIndex) (Q : Point) : State := s.writePtReg i (PointReg.ofPoint Q)

/-- `IV0..IV3` and `KEY0..KEY3`, all eight words at once (R24, R116). -/
def State.writeKeys (s : State) (iv key : Vector Word 4) : State := { s with iv := iv, key := key }

/-- What a command that succeeds writes (R50): one integer register, one point register, or the eight IV and key words. -/
inductive Result where
  | intReg (d : RegIndex) (v : Word)
  | pointReg (d : RegIndex) (Q : Point)
  | keyMaterial (iv key : Vector Word 4)
  deriving DecidableEq, Repr

/-- Writes every destination a command names (R50). -/
def State.writeResult (s : State) : Result → State
  | .intReg d v => s.writeX d v
  | .pointReg d Q => s.writePt d Q
  | .keyMaterial iv key => s.writeKeys iv key

/-- The succeeding end of a completion step (R50): the results are in place, `DONE` <- 1, `BUSY` <- 0. -/
def State.succeed (s : State) : State := { s with status := s.status.succeeded }

/-- ERROR ENTRY (R124), the one shared operation: `ERR` <- 1, `ERRCODE` <- code(e), `ERRCMD` <- the command word held in CMD,
`BUSY` <- 0. No destination and no source register changes, CMD keeps the word, `DONE` and `OVR` stay. -/
def State.takeError (s : State) (e : ErrorKind) : State :=
  { s with status := s.status.failed e, errcmd := s.cmd }

/-- ERROR RETURN (R126): the host writes 1 to `STATUS.ERR`, which clears `ERR` and nothing else. Nothing was saved, so nothing
is restored. -/
def State.clearError (s : State) : State := { s with status := s.status.errCleared }

/-- The completion of a command that has been evaluated (R50): its results and `DONE`, or the error entry. -/
def State.complete (s : State) : Except ErrorKind Result → State
  | .ok r => (s.writeResult r).succeed
  | .error e => s.takeError e

/-- Acceptance of a command word (R45, R26): CMD holds all 32 bits as written, legal or not. -/
def State.accept (s : State) (w : Word) : State := { s with cmd := w, status := s.status.accepted }

/-- A dropped write (R46): nothing changes but `OVR` <- 1. -/
def State.drop (s : State) : State := { s with status := s.status.dropped }

/-- The reset input (R140, R141): every register takes its reset value and a running command is abandoned. What stands outside
the hardware stays (assumption log 8). -/
def State.resetHardware (s : State) : State := { State.reset with env := s.env }

/-- The state in which the word `w` has been accepted and the engine has the next turn, so that the next step completes it.
`ERR` is cleared first, since a command is accepted only while `ERR` = 0 (R45). Assumption log 11. -/
def State.placeCommand (s : State) (w : Word) : State :=
  { s with
    cmd := w
    status := s.status.errCleared.accepted
    env := { s.env with turns := .engine :: s.env.turns } }

end Sys2Proof.Machine
end

