-- ==== Sys2Proof/Machine/Kdf.lean ====
section
/-! DEFINITION. ecc_key_derive_kdf: decimal, hexdigest, deriveSymmetricKey, the packing of bytes into words, and the command KDF (43_kdf.md R110 to R116; 20_memory.md R43). -/

namespace Sys2Proof.Machine

/-- A decimal digit as ASCII (R110): `0x30 + d`. -/
def digitByte (d : Nat) : Byte := BitVec.ofNat 8 (0x30 + d)

/-- The digits of `n`, at most `fuel` of them, in front of `acc`. -/
def decimalDigits : Nat → Nat → List Byte → List Byte
  | 0, _, acc => acc
  | fuel + 1, n, acc =>
    if n / 10 = 0 then digitByte (n % 10) :: acc else decimalDigits fuel (n / 10) (digitByte (n % 10) :: acc)

/-- `decimal(n)` (R110): the base-10 digits, most significant first, no sign, no leading zero; `decimal(0)` is one byte. A
number has no more digits than its value plus one. -/
def decimal (n : Nat) : List Byte := decimalDigits (n + 1) n []

/-- The hexadecimal character of a nibble (R112): `0x30 + v` up to 9, then lower-case letters `0x61 + (v - 10)`. -/
def hexChar (v : BitVec 4) : Byte :=
  if v.toNat ≤ 9 then BitVec.ofNat 8 (0x30 + v.toNat) else BitVec.ofNat 8 (0x61 + (v.toNat - 10))

/-- `hexdigest(d)` (R112): byte `j` gives character `2*j` from its high nibble and `2*j + 1` from its low nibble. -/
def hexdigest {n : Nat} (d : Vector Byte n) : Vector Byte (2 * n) :=
  Vector.ofFn fun (i : Fin (2 * n)) =>
    if i.val % 2 = 0 then hexChar ((d[i.val / 2]'(by omega)).extractLsb' 4 4)
    else hexChar ((d[i.val / 2]'(by omega)).extractLsb' 0 4)

/-- The IV and the key (R113): the first and the last 16 characters of the hex digest, as raw bytes. -/
structure DerivedKey where
  iv : Vector Byte 16
  key : Vector Byte 16
  deriving DecidableEq, Repr

/-- The selection of R113 from the hex digest `h` of `L = 2 * HASH_BYTES` characters. -/
def selectKey {e : Nat} (h : Vector Byte (2 * (8 + e))) : DerivedKey :=
  { iv := Vector.ofFn fun (i : Fin 16) => h[i.val]'(by omega)
    key := Vector.ofFn fun (i : Fin 16) => h[2 * (8 + e) - 16 + i.val]'(by omega) }

/-- `deriveSymmetricKey(S)` (R113). The hash of the x-coordinate is discarded by the source and cannot be observed (R114).
`decimal` is defined for `n >= 0` only (R110); that a point with `y < 0`, which no register holds, is hashed as if `y` were 0 is
the model's choice. DESIGN CHOICE, assumption log 18. -/
def deriveSymmetricKey (H : HashFn) : Point → Except ErrorKind DerivedKey
  | .identity => .error .kdfIdentity
  | .affine _ y => .ok (selectKey (hexdigest (H.digest (decimal y.toNat))))

/-- Word `j` of a packed byte string (R43, R116): `(b[4*j+3], b[4*j+2], b[4*j+1], b[4*j])` with the first in the high bits. -/
def packWord (b : Vector Byte 16) (j : RegIndex) : Word :=
  b[4 * j.val + 3] ++ b[4 * j.val + 2] ++ b[4 * j.val + 1] ++ b[4 * j.val]

/-- The little-endian packing of 16 bytes into four words (R43). -/
def packWords (b : Vector Byte 16) : Vector Word 4 := #v[packWord b 0, packWord b 1, packWord b 2, packWord b 3]

/-- Byte `i` of four packed words (R24, R43): bits `8*(i mod 4) + 7 : 8*(i mod 4)` of word `i div 4`. -/
def packedByte (ws : Vector Word 4) (i : Fin 16) : Byte := ws[i.val / 4].extractLsb' (8 * (i.val % 4)) 8

/-- What KDF computes (R116): `KdfIdentity` first, then the range check, then the derivation. -/
def kdfResult (c : CurveParams) (H : HashFn) (ps1 : RegField) (s : State) : Except ErrorKind Result := do
  let a ← fieldIndex ps1
  if s.readPt a = .identity then .error .kdfIdentity
  else do
    checkRange c (s.readPt a)
    let k ← deriveSymmetricKey H (s.readPt a)
    return .keyMaterial (packWords k.iv) (packWords k.key)

/-- `KDF ps1` (R116). -/
def execKdf (ps1 : RegField) (s : State) : Host.Outcome State Fault Refusal :=
  .next (s.complete (kdfResult Config.curve Config.hash ps1 s))

end Sys2Proof.Machine
end

