-- ==== Sys2Proof/Machine/ModInv.lean ====
section
/-! DEFINITION. modular_inverse_engine: the function modInverse and the command MODINV (40_modinv.md R82, R84). -/

namespace Sys2Proof.Machine

/-- The working values of R82's loop (the hidden state of MODINV, R31): two remainders and two Bezout coefficients. -/
structure EuclidState where
  r0 : Nat
  r1 : Nat
  t0 : Int
  t1 : Int
  deriving DecidableEq, Repr

/-- `r0 = p ; r1 = emod(a, p) ; t0 = 0 ; t1 = 1` (R82). -/
def euclidStart (a : Int) (p : Nat) : EuclidState := { r0 := p, r1 := (emod a p).toNat, t0 := 0, t1 := 1 }

/-- One pass of the loop body (R82), a simultaneous assignment; `q = fdiv(r0, r1)`. -/
def euclidBody (e : EuclidState) : EuclidState :=
  { r0 := e.r1
    r1 := e.r0 - e.r0 / e.r1 * e.r1
    t0 := e.t1
    t1 := e.t0 - (e.r0 / e.r1 : Nat) * e.t1 }

/-- `while r1 != 0` with at most `n` passes. -/
def euclidLoop : Nat → EuclidState → EuclidState
  | 0, e => e
  | n + 1, e => if e.r1 = 0 then e else euclidLoop n (euclidBody e)

/-- `modInverse(a, p)` (R82). `r1` strictly decreases, so as many passes as its first value are enough for the loop to end by
itself (assumption log 16). -/
def modInverse (a : Int) (p : Nat) : Except ErrorKind Int :=
  if p = 0 then .error .noInverseExists
  else
    let e := euclidLoop (euclidStart a p).r1 (euclidStart a p)
    if e.r0 ≠ 1 then .error .noInverseExists else .ok (emod e.t0 p)

/-- What MODINV computes (R84): `a` is read signed, the modulus unsigned. -/
def modinvResult (rd ra rm : RegField) (s : State) : Except ErrorKind Result := do
  let d ← fieldIndex rd
  let a ← fieldIndex ra
  let m ← fieldIndex rm
  let v ← modInverse (sint (s.readX a)) (uint (s.readX m))
  return .intReg d (zext32 v)

/-- `MODINV rd, ra, rm` (R84). -/
def execModinv (rd ra rm : RegField) (s : State) : Host.Outcome State Fault Refusal :=
  .next (s.complete (modinvResult rd ra rm s))

end Sys2Proof.Machine
end

