-- ==== Sys2Proof/Machine/PointAlgebra.lean ====
section
/-! DEFINITION. ecc_point_add_double: the on-curve predicate, the functions double and add, and the commands PADD, PDBL, LDG (41_point_algebra.md R90 to R97). -/

namespace Sys2Proof.Machine

/-- `OnCurve` (R90): in range and `emod(y^2 - (x^3 + A*x + B), P) = 0`; `Identity` counts. No command evaluates it. -/
def onCurve (c : CurveParams) : Point → Bool
  | .identity => true
  | .affine x y =>
    Point.inRange c (.affine x y) && decide (emod (y * y - (x * x * x + c.A * x + c.B)) c.P = 0)

/-- The point with the slope `s` through `(x1, y1)` and a second point with x-coordinate `x2`: `x3 = s^2 - x1 - x2` and
`y3 = s*(x1 - x3) - y1`, reduced (R92 with `x2 = x1`, R93). `y3` uses the reduced `x3`. -/
def chordPoint (c : CurveParams) (s x1 y1 x2 : Int) : Point :=
  let x3 := emod (s * s - x1 - x2) c.P
  .affine x3 (emod (s * (x1 - x3) - y1) c.P)

/-- `double(Q)` (R92); the cases are tested in the rule's order. -/
def double (c : CurveParams) : Point → Except ErrorKind Point
  | .identity => .ok .identity
  | .affine x y =>
    if y = 0 then .ok .identity
    else do
      let i ← modInverse (emod (2 * y) c.P) c.P
      let s := emod ((3 * (x * x) + c.A) * i) c.P
      return chordPoint c s x y x

/-- `add(Q1, Q2)` (R93); the cases are tested in the rule's order. -/
def add (c : CurveParams) : Point → Point → Except ErrorKind Point
  | .identity, Q2 => .ok Q2
  | .affine x1 y1, .identity => .ok (.affine x1 y1)
  | .affine x1 y1, .affine x2 y2 =>
    if x1 = x2 ∧ y1 = y2 then double c (.affine x1 y1)
    else if x1 = x2 then .ok .identity
    else do
      let i ← modInverse (emod (x2 - x1) c.P) c.P
      let s := emod ((y2 - y1) * i) c.P
      return chordPoint c s x1 y1 x2

/-- What PADD computes (R95): both range checks, then `add`. -/
def paddResult (c : CurveParams) (pd ps1 ps2 : RegField) (s : State) : Except ErrorKind Result := do
  let d ← fieldIndex pd
  let a ← fieldIndex ps1
  let b ← fieldIndex ps2
  checkRange c (s.readPt a)
  checkRange c (s.readPt b)
  let R ← add c (s.readPt a) (s.readPt b)
  return .pointReg d R

/-- What PDBL computes (R96): the range check, then `double`. -/
def pdblResult (c : CurveParams) (pd ps1 : RegField) (s : State) : Except ErrorKind Result := do
  let d ← fieldIndex pd
  let a ← fieldIndex ps1
  checkRange c (s.readPt a)
  let R ← double c (s.readPt a)
  return .pointReg d R

/-- What LDG writes (R97): the generator; it reads no register. -/
def ldgResult (c : CurveParams) (pd : RegField) : Except ErrorKind Result := do
  let d ← fieldIndex pd
  return .pointReg d (.affine c.Gx c.Gy)

/-- `PADD pd, ps1, ps2` (R95). -/
def execPadd (pd ps1 ps2 : RegField) (s : State) : Host.Outcome State Fault Refusal :=
  .next (s.complete (paddResult Config.curve pd ps1 ps2 s))

/-- `PDBL pd, ps1` (R96). -/
def execPdbl (pd ps1 : RegField) (s : State) : Host.Outcome State Fault Refusal :=
  .next (s.complete (pdblResult Config.curve pd ps1 s))

/-- `LDG pd` (R97). -/
def execLdg (pd : RegField) (s : State) : Host.Outcome State Fault Refusal :=
  .next (s.complete (ldgResult Config.curve pd))

end Sys2Proof.Machine
end

