-- ==== Sys2Proof/Machine/ScalarMult.lean ====
section
/-! DEFINITION. ecc_scalar_mult: the function scalarMultiply and the command SMUL (42_scalar_mult.md R100 to R102). -/

namespace Sys2Proof.Machine

/-- The working values of R100's loop (the hidden state of SMUL, R31): the result, the addend, and the bits of the scalar not
yet examined. -/
structure SmulState where
  R : Point
  Q : Point
  n : Nat
  deriving DecidableEq, Repr

/-- One pass of the loop body (R100): first the accumulation when the lowest remaining bit is 1, then the doubling, on every
step; a failure of either fails the whole. -/
def smulBody (c : CurveParams) (m : SmulState) : Except ErrorKind SmulState := do
  let R ← if m.n % 2 = 1 then add c m.R m.Q else .ok m.R
  let Q ← double c m.Q
  return { R := R, Q := Q, n := m.n / 2 }

/-- `while n != 0` with at most `k` passes. -/
def smulLoop (c : CurveParams) : Nat → SmulState → Except ErrorKind SmulState
  | 0, m => .ok m
  | k + 1, m => if m.n = 0 then .ok m else do
    let m' ← smulBody c m
    smulLoop c k m'

/-- `bitlen(k)` (R102): 0 for 0, else the least `n` with `k < 2^n`. -/
def bitlen (k : Nat) : Nat := if k = 0 then 0 else Nat.log2 k + 1

/-- `scalarMultiply(k, Q0)` (R100). The loop ends by itself after exactly `bitlen(k)` passes (R102; assumption log 16). -/
def scalarMultiply (c : CurveParams) (k : Int) (Q0 : Point) : Except ErrorKind Point :=
  if k < 0 then .error .invalidScalar
  else do
    let m ← smulLoop c (bitlen k.toNat) { R := .identity, Q := Q0, n := k.toNat }
    return m.R

/-- What SMUL computes (R101): the scalar is read signed and refused when negative before the point is looked at; then the
range check, also for `k` = 0; then `scalarMultiply`. -/
def smulResult (c : CurveParams) (pd ps1 rk : RegField) (s : State) : Except ErrorKind Result := do
  let d ← fieldIndex pd
  let a ← fieldIndex ps1
  let r ← fieldIndex rk
  if sint (s.readX r) < 0 then .error .invalidScalar
  else do
    checkRange c (s.readPt a)
    let R ← scalarMultiply c (sint (s.readX r)) (s.readPt a)
    return .pointReg d R

/-- `SMUL pd, ps1, rk` (R101). -/
def execSmul (pd ps1 rk : RegField) (s : State) : Host.Outcome State Fault Refusal :=
  .next (s.complete (smulResult Config.curve pd ps1 rk s))

end Sys2Proof.Machine
end

