-- ==== Sys2Proof/Machine/Dispatch.lean ====
section
/-! DEFINITION. The dispatch of 30_encoding.md R66: one arm per command, each one call of its meaning. -/

namespace Sys2Proof.Machine

/-- The completion of a command (R50, R66). -/
def exec (i : Instr) (s : State) : Host.Outcome State Fault Refusal :=
  match i with
  | .modinv rd ra rm => Sys2Proof.Machine.execModinv rd ra rm s
  | .padd pd ps1 ps2 => Sys2Proof.Machine.execPadd pd ps1 ps2 s
  | .pdbl pd ps1 => Sys2Proof.Machine.execPdbl pd ps1 s
  | .smul pd ps1 rk => Sys2Proof.Machine.execSmul pd ps1 rk s
  | .kdf ps1 => Sys2Proof.Machine.execKdf ps1 s
  | .ldg pd => Sys2Proof.Machine.execLdg pd s

end Sys2Proof.Machine
end

