-- ==== Sys2Proof/Machine/Window.lean ====
section
/-! DEFINITION. The host register window: the map, MemRead and MemWrite (20_memory.md R40 to R46; 10_state.md R28). -/

namespace Sys2Proof.Machine

/-- The registers of the window (R41). -/
inductive WindowReg where
  | status
  | cmd
  | errcmd
  | paramP
  | paramA
  | paramB
  | paramGx
  | paramGy
  | x (i : RegIndex)
  | ptTag (i : RegIndex)
  | ptX (i : RegIndex)
  | ptY (i : RegIndex)
  | iv (j : RegIndex)
  | key (j : RegIndex)
  deriving DecidableEq, Repr

/-- The offset of a register, by the formulas of R41. -/
def WindowReg.offset : WindowReg → Nat
  | .status => 0x00
  | .cmd => 0x04
  | .errcmd => 0x08
  | .paramP => 0x10
  | .paramA => 0x14
  | .paramB => 0x18
  | .paramGx => 0x1C
  | .paramGy => 0x20
  | .x i => 0x40 + 4 * i.val
  | .ptTag i => 0x60 + 16 * i.val
  | .ptX i => 0x64 + 16 * i.val
  | .ptY i => 0x68 + 16 * i.val
  | .iv j => 0xA0 + 4 * j.val
  | .key j => 0xB0 + 4 * j.val

/-- The map, row by row (R41); every offset not listed is unmapped. -/
def regAt (addr : Nat) : Option WindowReg :=
  match addr with
  | 0x00 => some .status
  | 0x04 => some .cmd
  | 0x08 => some .errcmd
  | 0x10 => some .paramP
  | 0x14 => some .paramA
  | 0x18 => some .paramB
  | 0x1C => some .paramGx
  | 0x20 => some .paramGy
  | 0x40 => some (.x 0)
  | 0x44 => some (.x 1)
  | 0x48 => some (.x 2)
  | 0x4C => some (.x 3)
  | 0x60 => some (.ptTag 0)
  | 0x64 => some (.ptX 0)
  | 0x68 => some (.ptY 0)
  | 0x70 => some (.ptTag 1)
  | 0x74 => some (.ptX 1)
  | 0x78 => some (.ptY 1)
  | 0x80 => some (.ptTag 2)
  | 0x84 => some (.ptX 2)
  | 0x88 => some (.ptY 2)
  | 0x90 => some (.ptTag 3)
  | 0x94 => some (.ptX 3)
  | 0x98 => some (.ptY 3)
  | 0xA0 => some (.iv 0)
  | 0xA4 => some (.iv 1)
  | 0xA8 => some (.iv 2)
  | 0xAC => some (.iv 3)
  | 0xB0 => some (.key 0)
  | 0xB4 => some (.key 1)
  | 0xB8 => some (.key 2)
  | 0xBC => some (.key 3)
  | _ => none

/-- What a size and an offset reach (R42): only a 4-byte access at a mapped offset reaches a register, and every mapped offset
is a multiple of 4 in `0x00`..`0xFF`. -/
def decodeAccess (addr size : Nat) : Option WindowReg := if size = 4 then regAt addr else none

/-- The tag word (R22): `INF` in bit 0, bits 31:1 read as 0. -/
def tagWord (inf : Bool) : Word := 0#31 ++ flagBit inf

/-- The content of a register as the host reads it (R44). -/
def State.readReg (s : State) : WindowReg → Word
  | .status => s.status.word
  | .cmd => s.cmd
  | .errcmd => s.errcmd
  | .paramP => BitVec.ofNat 32 Config.curve.P
  | .paramA => BitVec.ofNat 32 Config.curve.A
  | .paramB => BitVec.ofNat 32 Config.curve.B
  | .paramGx => BitVec.ofNat 32 Config.curve.Gx
  | .paramGy => BitVec.ofNat 32 Config.curve.Gy
  | .x i => s.readX i
  | .ptTag i => tagWord (s.readPtReg i).inf
  | .ptX i => (s.readPtReg i).x
  | .ptY i => (s.readPtReg i).y
  | .iv j => s.iv[j.val]
  | .key j => s.key[j.val]

/-- A data register write while `BUSY` = 0; while `BUSY` = 1 it is dropped (R45, R46). -/
def State.ifIdle (s s' : State) : State := if s.status.busy then s.drop else s'

/-- A host write of a word to a register of the window (R45). Read-only registers ignore it, without `OVR`. -/
def State.writeReg (s : State) (r : WindowReg) (v : Word) : State :=
  match r with
  | .status => { s with status := s.status.hostWrite v }
  | .cmd => if s.status.accepts then s.accept v else s.drop
  | .errcmd => s
  | .paramP => s
  | .paramA => s
  | .paramB => s
  | .paramGx => s
  | .paramGy => s
  | .x i => s.ifIdle (s.writeX i v)
  | .ptTag i => s.ifIdle (s.writePtReg i { s.readPtReg i with inf := v.getLsbD 0 })
  | .ptX i => s.ifIdle (s.writePtReg i { s.readPtReg i with x := v })
  | .ptY i => s.ifIdle (s.writePtReg i { s.readPtReg i with y := v })
  | .iv j => s.ifIdle { s with iv := s.iv.set j.val v }
  | .key j => s.ifIdle { s with key := s.key.set j.val v }

/-- `MemRead(addr, size)` (R42, R44): no side effect. -/
def State.memRead (s : State) (addr size : Nat) : BusResponse :=
  match decodeAccess addr size with
  | some r => .data (s.readReg r)
  | none => .buserror

/-- The answer of `MemWrite(addr, size, v)` (R42, R45); a dropped write answers `ok` too (R46). -/
def memWriteResponse (addr size : Nat) : BusResponse :=
  match decodeAccess addr size with
  | some _ => .ok
  | none => .buserror

/-- What `MemWrite(addr, size, v)` does (R42, R45). -/
def State.memWrite (s : State) (addr size : Nat) (v : Word) : State :=
  match decodeAccess addr size with
  | some r => s.writeReg r v
  | none => s

/-- The answer of an access. -/
def State.answer (s : State) : Access → BusResponse
  | .read addr size => s.memRead addr size
  | .write addr size _ => memWriteResponse addr size

/-- The effect of an access on the registers; a read has none (R44). -/
def State.effect (s : State) : Access → State
  | .read _ _ => s
  | .write addr size v => s.memWrite addr size v

/-- One host access (R48): its effect, and its answer kept for the host. -/
def State.access (s : State) (a : Access) : State :=
  let t := s.effect a
  { t with env := { t.env with response := some (s.answer a) } }

end Sys2Proof.Machine
end

