-- ==== Sys2Proof/Machine/HostProgram.lean ====
section
/-! DEFINITION. The host: its turn, the pseudo-instructions of 30_encoding.md R68, and the key-agreement sequences of 42_scalar_mult.md R105, R106. -/

namespace Sys2Proof.Machine

/-- The host's program becomes `p`. -/
def State.setProgram (s : State) (p : List HostOp) : State := { s with env := { s.env with program := p } }

/-- `BUSY` in a value read from STATUS (R25). -/
def busyBit (v : Word) : Bool := v.getLsbD 0

/-- `ERR` in a value read from STATUS (R25). -/
def errBit (v : Word) : Bool := v.getLsbD 2

/-- What a poll of STATUS leaves of the program (R68, R106): while `BUSY` = 1 the host polls again; then it goes on, or, when it
ends on an error and `ERR` = 1, it has nothing more to do. -/
def afterPoll (v : Word) (endOnError : Bool) (rest : List HostOp) : List HostOp :=
  if busyBit v then .wait endOnError :: rest
  else if endOnError && errBit v then [] else rest

/-- The host's turn (R13): its next access, or one poll of WAIT; a host with nothing to do leaves everything as it is. -/
def State.hostTurn (s : State) : State :=
  match s.env.program with
  | [] => s
  | .access a :: rest => (s.access a).setProgram rest
  | .wait endOnError :: rest =>
    (s.access (.read 0x00 4)).setProgram (afterPoll (s.readReg .status) endOnError rest)

/-- A 4-byte write as a host operation. -/
def hostWrite (r : WindowReg) (v : Word) : HostOp := .access (.write r.offset 4 v)

/-- A 4-byte read as a host operation. -/
def hostRead (r : WindowReg) : HostOp := .access (.read r.offset 4)

/-- `LI xi, n` for `-2^31 <= n < 2^32` (R68); outside that range `n` is taken modulo 2^32 (assumption log 18). -/
def pseudoLI (i : RegIndex) (n : Int) : List HostOp := [hostWrite (.x i) (if n < 0 then sext32 n else zext32 n)]

/-- `GETX xi` (R68). -/
def pseudoGETX (i : RegIndex) : List HostOp := [hostRead (.x i)]

/-- `SETPT pti, xv, yv` (R68): the coordinates first, then the tag. A coordinate outside `[0, 2^32)` is taken modulo 2^32
(assumption log 18). -/
def pseudoSETPT (i : RegIndex) (xv yv : Int) : List HostOp :=
  [hostWrite (.ptX i) (zext32 xv), hostWrite (.ptY i) (zext32 yv), hostWrite (.ptTag i) 0#32]

/-- `SETID pti` (R68). -/
def pseudoSETID (i : RegIndex) : List HostOp :=
  [hostWrite (.ptTag i) 1#32, hostWrite (.ptX i) 0#32, hostWrite (.ptY i) 0#32]

/-- `GETPT pti` (R68). -/
def pseudoGETPT (i : RegIndex) : List HostOp := [hostRead (.ptTag i), hostRead (.ptX i), hostRead (.ptY i)]

/-- The point GETPT's three reads stand for (R68): `Identity` if bit 0 of the first is 1, else `Affine` of the other two. -/
def pointOfReads (tag xv yv : Word) : Point := if tag.getLsbD 0 then .identity else .affine (uint xv) (uint yv)

/-- `ISSUE <command>` (R68). Of an ill-formed term it writes the illegal word that carries its fields (assumption log 6). -/
def pseudoISSUE (i : Instr) : List HostOp := [hostWrite .cmd (encode i)]

/-- `WAIT` (R68). -/
def pseudoWAIT : List HostOp := [.wait false]

/-- `RUN <command>` (R68). -/
def pseudoRUN (i : Instr) : List HostOp := pseudoISSUE i ++ pseudoWAIT

/-- `CLRERR` (R68). -/
def pseudoCLRERR : List HostOp := [hostWrite .status 0x00000004#32]

/-- `CLROVR` (R68). -/
def pseudoCLROVR : List HostOp := [hostWrite .status 0x00000008#32]

/-- The eight offsets of GETKEY and ZEROKEY in their order (R68). -/
def keyRegs : List WindowReg := [.iv 0, .iv 1, .iv 2, .iv 3, .key 0, .key 1, .key 2, .key 3]

/-- `GETKEY` (R68). -/
def pseudoGETKEY : List HostOp := keyRegs.map hostRead

/-- `ZEROKEY` (R68). -/
def pseudoZEROKEY : List HostOp := keyRegs.map fun r => hostWrite r 0#32

/-- `modInverse(a, p)` as a sequence (R69): the operands into `xa` and `xm`, then MODINV into `xd`. Which registers a sequence
uses is its caller's (assumption log 21). -/
def sequenceModInverse (a : Int) (p : Nat) (xd xa xm : RegIndex) : List HostOp :=
  pseudoLI xa a ++ pseudoLI xm p ++ pseudoRUN (.modinv (indexField xd) (indexField xa) (indexField xm))

/-- `SETPT`, or `SETID` for `Identity` (R69, R106). -/
def setPoint (i : RegIndex) : Point → List HostOp
  | .identity => pseudoSETID i
  | .affine xv yv => pseudoSETPT i xv yv

/-- `add(P1, P2)` as a sequence (R69): both points into `pts1` and `pts2`, then PADD into `ptd`. -/
def sequenceAdd (P1 P2 : Point) (ptd pts1 pts2 : RegIndex) : List HostOp :=
  setPoint pts1 P1 ++ setPoint pts2 P2 ++ pseudoRUN (.padd (indexField ptd) (indexField pts1) (indexField pts2))

/-- `double(P)` as a sequence (R69): `RUN PDBL` on a register that holds the point. -/
def sequenceDouble (ptd pts : RegIndex) : List HostOp := pseudoRUN (.pdbl (indexField ptd) (indexField pts))

/-- `scalarMultiply(k, P)` as a sequence (R69): `RUN SMUL` on registers that hold the point and the scalar. -/
def sequenceScalarMultiply (ptd pts xk : RegIndex) : List HostOp :=
  pseudoRUN (.smul (indexField ptd) (indexField pts) (indexField xk))

/-- `deriveSymmetricKey(S)` as a sequence (R69): `RUN KDF` on a register that holds the point, then `GETKEY`. -/
def sequenceDeriveSymmetricKey (pts : RegIndex) : List HostOp := pseudoRUN (.kdf (indexField pts)) ++ pseudoGETKEY

/-- A command of a sequence that ends when the command fails (R106): `RUN`, and nothing after an error. -/
def runOrEnd (i : Instr) : List HostOp := pseudoISSUE i ++ [.wait true]

/-- A private scalar the host may draw (R105, R8): `1 <= k <= upperBound <= KMAX`. -/
def drawable (upperBound : Nat) (k : Nat) : Bool :=
  decide (1 ≤ k) && decide (k ≤ upperBound) && decide (upperBound ≤ Config.kmax)

/-- KEYGEN (R105) once the host has drawn `k`: the draw is the host's, so `k` is an argument (assumption log 15). -/
def keygen (k : Nat) (xi ptj : RegIndex) : List HostOp :=
  pseudoLI xi k ++ runOrEnd (.ldg (indexField ptj)) ++ runOrEnd (.smul (indexField ptj) (indexField ptj) (indexField xi))

/-- SHARED (R106): the shared secret of a private scalar and a received point. -/
def shared (k : Nat) (Q : Point) (xi pts ptd : RegIndex) : List HostOp :=
  pseudoLI xi k ++ setPoint pts Q ++ runOrEnd (.smul (indexField ptd) (indexField pts) (indexField xi))

/-- Overwriting what held the key material, the private scalar and the shared point (R106, R147). ZEROKEY writes 0 by R68; that
`x[xi]` is overwritten with 0 and `pt[ptd]` with the canonical `Identity` is the model's choice, since R106 and R147 say only
that they are overwritten. DESIGN CHOICE, assumption log 20. -/
def eraseSecrets (xi ptd : RegIndex) : List HostOp := pseudoZEROKEY ++ pseudoLI xi 0 ++ pseudoSETID ptd

/-- The hardware part of `encryptMessage` (R106): KEYGEN for an ephemeral pair, reading its public point, SHARED with the
recipient's public point, KDF, GETKEY, and the erasure. -/
def encryptHardware (k : Nat) (recipient : Point) (xi ptj pts ptd : RegIndex) : List HostOp :=
  keygen k xi ptj ++ pseudoGETPT ptj ++ shared k recipient xi pts ptd ++ runOrEnd (.kdf (indexField ptd)) ++ pseudoGETKEY ++
    eraseSecrets xi ptd

/-- The hardware part of `decryptMessage`: R106's sequence, which ends with ZEROKEY, and after it the overwriting of `xi` and
`ptd`, which R106 does not list for this sequence and R147 makes the host's duty; that the sequence itself does it is the
model's choice. DESIGN CHOICE, assumption log 20. -/
def decryptHardware (k : Nat) (sender : Point) (xi pts ptd : RegIndex) : List HostOp :=
  shared k sender xi pts ptd ++ runOrEnd (.kdf (indexField ptd)) ++ pseudoGETKEY ++ eraseSecrets xi ptd

end Sys2Proof.Machine
end

