-- ==== Sys2Proof/Machine/Turns.lean ====
section
/-! DEFINITION. The turns of the three agents: the engine's completion step (20_memory.md R50), the host, the reset input (70_reset_and_hazards.md R140, R141), and whose turn is next. -/

namespace Sys2Proof.Machine

/-- The completion step (R50, R66): the command word held in CMD is decoded and carried out; an illegal word raises
IllegalCommand (R64). -/
def State.completion (s : State) : Host.Outcome State Fault Refusal :=
  match decode s.cmd with
  | .ok i => exec i s
  | .error _ => .next (s.takeError .illegalCommand)

/-- The engine's turn (R50): its one step is enabled iff `BUSY` = 1; it never takes a step while `BUSY` = 0, and then the
hardware is idle and keeps all state (R132). -/
def State.engineTurn (s : State) : Host.Outcome State Fault Refusal :=
  if s.status.busy then s.completion else .next s

/-- Whose turn is next: the first of the listed turns; when none is listed, the engine while `BUSY` = 1, else the host
(assumption log 2). -/
def State.nextAgent (s : State) : Agent :=
  match s.env.turns with
  | [] => if s.status.busy then .engine else .host
  | a :: _ => a

/-- The turn that is taken leaves the list. -/
def State.popTurn (s : State) : State := { s with env := { s.env with turns := s.env.turns.tail } }

/-- One turn of an agent. -/
def State.turn (s : State) : Agent → Host.Outcome State Fault Refusal
  | .host => .next s.hostTurn
  | .engine => s.engineTurn
  | .reset => .next s.resetHardware

end Sys2Proof.Machine
end

