-- ==== Sys2Proof/Machine/Step.lean ====
section
/-! DEFINITION. One step of the machine: one turn of one agent, completely (20_memory.md R48, R50). -/

namespace Sys2Proof.Machine

/-- One step: the agent whose turn is next takes it. -/
def step (s : State) : Host.Outcome State Fault Refusal := s.popTurn.turn s.nextAgent

/-- The state in which the table's word has been accepted into CMD and the engine's completion step is next. -/
def State.withFetchWord (s : State) (nbits w : Nat) : State := s.placeCommand (tableWord nbits w)

end Sys2Proof.Machine
end

