-- ==== Sys2Proof/Safety.lean ====
section
/-! DEFINITION. The terms in which claims speak of safe states and runs. The predicates are abbreviations, so that they can be decided on concrete states. -/

namespace Sys2Proof.Machine

/-- The invariant of the status registers. `BUSY`, `DONE` and `ERR` exclude each other pairwise (10_state.md R25); `ERRCODE` is
a code of R120, and `ERRCODE` = 0 means that no command has failed since reset, so `ERR` = 0 and ERRCMD holds its reset value;
while `ERR` = 1 no command has been accepted since the failure (60_exceptions.md R126), so ERRCMD holds what CMD holds (R124). -/
abbrev State.Inv (s : State) : Prop :=
  ¬ (s.status.busy = true ∧ s.status.err = true) ∧
  ¬ (s.status.busy = true ∧ s.status.done = true) ∧
  ¬ (s.status.done = true ∧ s.status.err = true) ∧
  s.status.errCode.toNat ≤ 5 ∧
  (s.status.errCode = 0#4 → s.status.err = false ∧ s.errcmd = 0#32) ∧
  (s.status.err = true → s.errcmd = s.cmd)

/-- The engine has the next turn and a command to complete. -/
abbrev State.completing (s : State) : Prop := s.nextAgent = .engine ∧ s.status.busy = true

/-- Two states hold the same data registers (R45): integer, point, IV and key registers. -/
abbrev State.sameData (s t : State) : Prop := s.x = t.x ∧ s.pt = t.pt ∧ s.iv = t.iv ∧ s.key = t.key

/-- Two states hold the same registers, whatever stands outside the hardware. -/
abbrev State.sameRegisters (s t : State) : Prop :=
  s.sameData t ∧ s.status = t.status ∧ s.cmd = t.cmd ∧ s.errcmd = t.errcmd

/-- The hardware is idle with no error: it accepts the next command (R45). -/
abbrev State.ready (s : State) : Prop := s.status.busy = false ∧ s.status.err = false

/-- The state after a command that wrote the word `v` to `x[d]` and succeeded, written out field by field (R50). -/
def State.afterInt (s : State) (d : RegIndex) (v : Word) : State :=
  { s with x := s.x.set d.val v, status := { s.status with busy := false, done := true } }

/-- The state after a command that wrote the three parts `r` to `pt[d]` and succeeded, written out field by field (R50). -/
def State.afterPoint (s : State) (d : RegIndex) (r : PointReg) : State :=
  { s with pt := s.pt.set d.val r, status := { s.status with busy := false, done := true } }

/-- The state after a command that failed with the code `n` of R120, written out field by field (R124). -/
def State.afterError (s : State) (n : BitVec 4) : State :=
  { s with status := { s.status with busy := false, err := true, errCode := n }, errcmd := s.cmd }

/-- A point register holds an Affine point with a coordinate `>= P` (R91, R120). -/
abbrev PointReg.outOfRange (r : PointReg) : Prop :=
  r.inf = false ∧ (Config.curve.P ≤ r.x.toNat ∨ Config.curve.P ≤ r.y.toNat)

/-- `i` is the inverse of `v` modulo `p` in `[0, p)` (R83). -/
abbrev isInverse (i v : Int) (p : Nat) : Prop := 0 ≤ i ∧ i < p ∧ i * v % p = 1 % p

/-- The parts of a point register holding `Affine(x, y)` (R23). -/
def affineReg (x y : Int) : PointReg := { inf := false, x := BitVec.ofInt 32 x, y := BitVec.ofInt 32 y }

/-- The parts of a point register a command has written `Identity` to (R23). -/
def identityReg : PointReg := { inf := true, x := 0#32, y := 0#32 }

/-- The `n`-fold sum of `Q` (00_scope.md R15: "repeated group addition of a point to itself"). -/
def repeatedSum (c : CurveParams) (Q : Point) : Nat → Except ErrorKind Point
  | 0 => .ok .identity
  | n + 1 => do
    let R ← repeatedSum c Q n
    add c R Q

/-- The value of a byte string of ASCII decimal digits. -/
def decimalValue (bs : List Byte) : Nat := bs.foldl (fun acc b => 10 * acc + (b.toNat - 0x30)) 0

/-- A lower-case hexadecimal character (R117): `0x30`..`0x39` or `0x61`..`0x66`. -/
abbrev isHexChar (b : Byte) : Prop := (0x30 ≤ b.toNat ∧ b.toNat ≤ 0x39) ∨ (0x61 ≤ b.toNat ∧ b.toNat ≤ 0x66)

/-- An offset that R41 lists as unmapped. -/
abbrev unmappedOffset (a : Nat) : Prop :=
  a = 0x0C ∨ (0x24 ≤ a ∧ a ≤ 0x3C) ∨ (0x50 ≤ a ∧ a ≤ 0x5C) ∨ a = 0x6C ∨ a = 0x7C ∨ a = 0x8C ∨ a = 0x9C ∨ (0xC0 ≤ a ∧ a ≤ 0xFC)

/-- An access R42 answers with a bus error: wrong size, misaligned, unmapped (R41), or outside the window. -/
abbrev badAccess (addr size : Nat) : Prop := size ≠ 4 ∨ addr % 4 ≠ 0 ∨ unmappedOffset addr ∨ 0xFF < addr

end Sys2Proof.Machine
end

