-- ==== Sys2Proof/Certificates/Slice0/Obligations.lean ====
section
/-! DEFINITION. The statements for the provers. Each says which rule or section of spec/ it formalises. -/

open Sys2Proof Sys2Proof.Machine

/-! ## Encoding -/

/-- 30_encoding.md section 2: the eight example words of R63 decode to the commands they stand for. -/
def Obligations.ExampleWordsDecode : Prop :=
  decode 0x00010201#32 = .ok (.modinv 2#4 0#4 1#4) ∧ decode 0x00010202#32 = .ok (.padd 2#4 0#4 1#4) ∧
  decode 0x00000103#32 = .ok (.pdbl 1#4 0#4) ∧ decode 0x00000104#32 = .ok (.smul 1#4 0#4 0#4) ∧
  decode 0x00012304#32 = .ok (.smul 3#4 2#4 1#4) ∧ decode 0x00001005#32 = .ok (.kdf 1#4) ∧
  decode 0x00000006#32 = .ok (.ldg 0#4) ∧ decode 0x00000306#32 = .ok (.ldg 3#4)

/-- 30_encoding.md sections 1 and 2: decoding the word of a well-formed command gives the command back. -/
def Obligations.DecodeOfEncode : Prop :=
  ∀ i : Instr, i.wellFormed = true → decode (encode i) = .ok i

/-- 30_encoding.md sections 1 and 2: a word decodes to a well-formed command only, and it is that command's word; so each
legal word has one meaning and no bit of it is dropped. -/
def Obligations.LegalWordIsItsCommandsWord : Prop :=
  ∀ (w : Word) (i : Instr), decode w = .ok i → i.wellFormed = true ∧ encode i = w

/-- R64: which words are illegal, that an illegal word is accepted like any other, and that its completion raises
IllegalCommand and changes no register other than STATUS and ERRCMD. -/
def Obligations.IllegalWordsRaiseIllegalCommand : Prop :=
  (∀ w : Word, (∃ e, decode w = .error e) ↔
    w.extractLsb' 20 12 ≠ 0#12 ∨ w.extractLsb' 0 8 = 0x00#8 ∨ 0x07 ≤ (w.extractLsb' 0 8).toNat ∨
    (w.extractLsb' 0 8 ∈ [0x01#8, 0x02#8, 0x04#8] ∧
      (4 ≤ (fieldRd w).toNat ∨ 4 ≤ (fieldRs1 w).toNat ∨ 4 ≤ (fieldRs2 w).toNat)) ∨
    (w.extractLsb' 0 8 = 0x03#8 ∧ (4 ≤ (fieldRd w).toNat ∨ 4 ≤ (fieldRs1 w).toNat ∨ fieldRs2 w ≠ 0#4)) ∨
    (w.extractLsb' 0 8 = 0x05#8 ∧ (fieldRd w ≠ 0#4 ∨ 4 ≤ (fieldRs1 w).toNat ∨ fieldRs2 w ≠ 0#4)) ∨
    (w.extractLsb' 0 8 = 0x06#8 ∧ (4 ≤ (fieldRd w).toNat ∨ fieldRs1 w ≠ 0#4 ∨ fieldRs2 w ≠ 0#4))) ∧
  (∃ e, decode 0x00000000#32 = .error e) ∧
  (∀ (s : State) (w : Word), s.ready →
    s.memWrite 0x04 4 w = { s with cmd := w, status := { s.status with busy := true, done := false } }) ∧
  (∀ s : State, s.completing → (∃ e, decode s.cmd = .error e) → step s = .next (s.popTurn.afterError 3#4))

/-- 30_encoding.md section 2 (R65): how many legal words each command has, 216 in all. -/
def Obligations.LegalWordCounts : Prop :=
  Set.ncard {w : Word | ∃ d a m, decode w = .ok (.modinv d a m)} = 64 ∧
  Set.ncard {w : Word | ∃ d a b, decode w = .ok (.padd d a b)} = 64 ∧
  Set.ncard {w : Word | ∃ d a, decode w = .ok (.pdbl d a)} = 16 ∧
  Set.ncard {w : Word | ∃ d a k, decode w = .ok (.smul d a k)} = 64 ∧
  Set.ncard {w : Word | ∃ a, decode w = .ok (.kdf a)} = 4 ∧
  Set.ncard {w : Word | ∃ d, decode w = .ok (.ldg d)} = 4 ∧
  Set.ncard {w : Word | ∃ i, decode w = .ok i} = 216

/-! ## The step -/

/-- 20_memory.md section 4 (R50), 30_encoding.md section 2 (R66): when the engine has the next turn, `BUSY` = 1 and the word in
CMD decodes to a command, the step is that command's completion on the state from which the turn has been taken. -/
def Obligations.StepRunsDecodedCommand : Prop :=
  ∀ (s : State) (i : Instr), s.completing → decode s.cmd = .ok i → step s = exec i s.popTurn

/-- 20_memory.md section 4 (R48, R50), 70_reset_and_hazards.md section 1 (R140): what a step is when another agent has the turn.
The engine changes no register while `BUSY` = 0 (R50, R132; that its turn is then a step that only leaves the list is the
model's, assumption log 10), and the reset input puts every register at its reset value. The model's choice: whose turn it is
(assumption logs 1 and 2), and that a reset keeps `env`, the host's program, the listed turns and the last answer (assumption
log 8). -/
def Obligations.StepOfTheOtherAgents : Prop :=
  ∀ s : State,
    (s.nextAgent = .engine → s.status.busy = false → step s = .next s.popTurn) ∧
    (s.nextAgent = .host → step s = .next s.popTurn.hostTurn) ∧
    (s.nextAgent = .reset → step s = .next { State.reset with env := s.popTurn.env }) ∧
    (s.env.turns = [] → s.nextAgent = if s.status.busy then .engine else .host) ∧
    (∀ a ts, s.env.turns = a :: ts → s.nextAgent = a ∧ s.popTurn.env.turns = ts)

/-! ## Reset -/

/-- R32: the state after reset, register by register. -/
def Obligations.ResetValues : Prop :=
  (∀ i : RegIndex, State.reset.x[i.val] = 0#32 ∧
    State.reset.pt[i.val] = { inf := true, x := 0#32, y := 0#32 } ∧ State.reset.readPt i = .identity ∧
    State.reset.iv[i.val] = 0#32 ∧ State.reset.key[i.val] = 0#32) ∧
  State.reset.status.busy = false ∧ State.reset.status.done = false ∧ State.reset.status.err = false ∧
  State.reset.status.ovr = false ∧ State.reset.status.errCode = 0#4 ∧ State.reset.status.word = 0#32 ∧
  State.reset.cmd = 0#32 ∧ State.reset.errcmd = 0#32 ∧
  State.reset.readReg .paramP = 101#32 ∧ State.reset.readReg .paramA = 35#32 ∧ State.reset.readReg .paramB = 3#32 ∧
  State.reset.readReg .paramGx = 2#32 ∧ State.reset.readReg .paramGy = 9#32

/-- R141: reset abandons a running command and leaves the reset state; nothing else abandons it: while a command runs, a turn
of the host leaves it running with its word and writes no destination. -/
def Obligations.ResetAbandonsRunningCommand : Prop :=
  (∀ s : State, s.nextAgent = .reset → ∃ t, step s = .next t ∧ t.sameRegisters State.reset) ∧
  (∀ s t : State, s.status.busy = true → s.nextAgent = .host → step s = .next t →
    t.status.busy = true ∧ t.cmd = s.cmd ∧ t.sameData s)

/-- 70_reset_and_hazards.md section 1 (R142): a command issued on the reset state is well defined. -/
def Obligations.CommandsOnTheResetState : Prop :=
  (∃ t, step (State.reset.withFetchWord 32 0x00000001) = .next t ∧ t.status.word = 0x00000104#32) ∧
  (∃ t, step (State.reset.withFetchWord 32 0x00000002) = .next t ∧ t.status.word = 0x00000002#32 ∧ t.readPt 0 = .identity) ∧
  (∃ t, step (State.reset.withFetchWord 32 0x00000004) = .next t ∧ t.status.word = 0x00000002#32 ∧ t.readPt 0 = .identity) ∧
  (∃ t, step (State.reset.withFetchWord 32 0x00000005) = .next t ∧ t.status.word = 0x00000504#32) ∧
  (∃ t, step (State.reset.withFetchWord 32 0x00000006) = .next t ∧ t.status.word = 0x00000002#32 ∧ t.readPt 0 = .affine 2 9)

/-! ## The window -/

/-- R28: the parameter registers read as the configuration's values, the same in every state, and host writes to them are
ignored. -/
def Obligations.ParamRegistersAreConstant : Prop :=
  (∀ s : State, s.memRead 0x10 4 = .data 0x00000065#32 ∧ s.memRead 0x14 4 = .data 0x00000023#32 ∧
    s.memRead 0x18 4 = .data 0x00000003#32 ∧ s.memRead 0x1C 4 = .data 0x00000002#32 ∧ s.memRead 0x20 4 = .data 0x00000009#32) ∧
  (∀ (s : State) (v : Word) (a : Nat), a ∈ [0x10, 0x14, 0x18, 0x1C, 0x20] →
    s.memWrite a 4 v = s ∧ memWriteResponse a 4 = .ok)

/-- R42: an access of a wrong size, misaligned, unmapped or outside the window answers `buserror`, delivers no data, writes
nothing and sets no flag; every other offset of the window answers. -/
def Obligations.BusErrorsChangeNothing : Prop :=
  (∀ (s : State) (addr size : Nat) (v : Word), badAccess addr size →
    s.memRead addr size = .buserror ∧ memWriteResponse addr size = .buserror ∧ s.memWrite addr size v = s) ∧
  (∀ (s : State) (addr size : Nat), ¬ badAccess addr size →
    (∃ r : WindowReg, addr = r.offset ∧ s.memRead addr size = .data (s.readReg r)) ∧ memWriteResponse addr size = .ok)

/-- R44: what a read returns for every register of the window, reserved bits as 0; a read has no side effect whatever `BUSY` and `ERR` are,
and while a command runs the host sees the data registers as they stood before it. -/
def Obligations.HostReads : Prop :=
  (∀ s : State,
    s.memRead 0x00 4 = .data s.status.word ∧ s.memRead 0x04 4 = .data s.cmd ∧ s.memRead 0x08 4 = .data s.errcmd ∧
    s.memRead 0x10 4 = .data 101#32 ∧ s.memRead 0x14 4 = .data 35#32 ∧ s.memRead 0x18 4 = .data 3#32 ∧
    s.memRead 0x1C 4 = .data 2#32 ∧ s.memRead 0x20 4 = .data 9#32 ∧
    (∀ i : RegIndex, s.memRead (0x40 + 4 * i.val) 4 = .data s.x[i.val] ∧
      s.memRead (0x60 + 16 * i.val) 4 = .data (if s.pt[i.val].inf then 1#32 else 0#32) ∧
      s.memRead (0x64 + 16 * i.val) 4 = .data s.pt[i.val].x ∧ s.memRead (0x68 + 16 * i.val) 4 = .data s.pt[i.val].y ∧
      s.memRead (0xA0 + 4 * i.val) 4 = .data s.iv[i.val] ∧ s.memRead (0xB0 + 4 * i.val) 4 = .data s.key[i.val])) ∧
  (∀ st : Status, st.word.getLsbD 0 = st.busy ∧ st.word.getLsbD 1 = st.done ∧ st.word.getLsbD 2 = st.err ∧
    st.word.getLsbD 3 = st.ovr ∧ st.word.extractLsb' 4 4 = 0#4 ∧ st.word.extractLsb' 8 4 = st.errCode ∧
    st.word.extractLsb' 12 20 = 0#20) ∧
  (∀ (s : State) (addr size : Nat), s.effect (.read addr size) = s ∧
    (s.access (.read addr size)).memRead addr size = s.memRead addr size) ∧
  (∀ s t : State, s.status.busy = true → s.nextAgent = .host → step s = .next t → t.sameData s)

/-- R45 and R46: what a host write does, register by register, and which writes are dropped. A dropped write changes nothing
but `OVR`, and answers `ok`. -/
def Obligations.HostWritesByRegister : Prop :=
  (∀ (s : State) (v : Word), s.memWrite 0x00 4 v = { s with status := { s.status with
      ovr := if v.getLsbD 3 then false else s.status.ovr
      err := if v.getLsbD 2 = true ∧ s.status.busy = false then false else s.status.err } }) ∧
  (∀ (s : State) (v : Word), s.status.busy = false → s.status.err = false →
    s.memWrite 0x04 4 v = { s with cmd := v, status := { s.status with busy := true, done := false } }) ∧
  (∀ (s : State) (v : Word), s.status.busy = true ∨ s.status.err = true →
    s.memWrite 0x04 4 v = { s with status := { s.status with ovr := true } }) ∧
  (∀ (s : State) (v : Word) (a : Nat), a ∈ [0x08, 0x10, 0x14, 0x18, 0x1C, 0x20] → s.memWrite a 4 v = s) ∧
  (∀ (s : State) (v : Word) (i : RegIndex), s.status.busy = false →
    s.memWrite (0x40 + 4 * i.val) 4 v = { s with x := s.x.set i.val v } ∧
    s.memWrite (0x60 + 16 * i.val) 4 v = { s with pt := s.pt.set i.val { s.pt[i.val] with inf := v.getLsbD 0 } } ∧
    s.memWrite (0x64 + 16 * i.val) 4 v = { s with pt := s.pt.set i.val { s.pt[i.val] with x := v } } ∧
    s.memWrite (0x68 + 16 * i.val) 4 v = { s with pt := s.pt.set i.val { s.pt[i.val] with y := v } } ∧
    s.memWrite (0xA0 + 4 * i.val) 4 v = { s with iv := s.iv.set i.val v } ∧
    s.memWrite (0xB0 + 4 * i.val) 4 v = { s with key := s.key.set i.val v }) ∧
  (∀ (s : State) (v : Word) (i : RegIndex) (a : Nat), s.status.busy = true →
    a ∈ [0x40 + 4 * i.val, 0x60 + 16 * i.val, 0x64 + 16 * i.val, 0x68 + 16 * i.val, 0xA0 + 4 * i.val, 0xB0 + 4 * i.val] →
    s.memWrite a 4 v = { s with status := { s.status with ovr := true } }) ∧
  (∀ r : WindowReg, memWriteResponse r.offset 4 = .ok)

/-- R26: CMD holds the most recently accepted word. In a step it changes only by an accepted host write, which it takes whole,
or by reset; a read of CMD returns it. -/
def Obligations.CmdHoldsTheAcceptedWord : Prop :=
  (∀ s t : State, step s = .next t → t.cmd ≠ s.cmd →
    (s.nextAgent = .host ∧ s.ready ∧ t.status.busy = true ∧
      ∃ rest, s.env.program = .access (.write 0x04 4 t.cmd) :: rest) ∨
    (s.nextAgent = .reset ∧ t.cmd = 0#32)) ∧
  (∀ (s : State) (w : Word) (rest : List HostOp), s.nextAgent = .host → s.ready →
    s.env.program = .access (.write 0x04 4 w) :: rest → ∃ t, step s = .next t ∧ t.cmd = w ∧ t.status.busy = true) ∧
  (∀ (s : State) (w : Word), ¬ s.ready → (s.memWrite 0x04 4 w).cmd = s.cmd) ∧
  (∀ s : State, s.memRead 0x04 4 = .data s.cmd ∧ s.effect (.read 0x04 4) = s) ∧ State.reset.cmd = 0#32

/-- R27: ERRCMD is written by a failing completion step, with the value of CMD, and by nothing else (reset gives it its reset
value); host writes are ignored, and clearing `ERR` keeps it. -/
def Obligations.ErrcmdHoldsTheFailedWord : Prop :=
  (∀ s t : State, step s = .next t → t.errcmd ≠ s.errcmd →
    (s.completing ∧ t.status.err = true ∧ t.errcmd = s.cmd) ∨ (s.nextAgent = .reset ∧ t.errcmd = 0#32)) ∧
  (∀ s t : State, s.Inv → s.completing → step s = .next t → t.status.err = true → t.errcmd = s.cmd) ∧
  (∀ (s : State) (v : Word), s.memWrite 0x08 4 v = s ∧ (s.memWrite 0x00 4 v).errcmd = s.errcmd) ∧ State.reset.errcmd = 0#32

/-- 10_state.md sections 5 and 6 (R25, R30), 20_memory.md section 3 (R45, R46): what sets and clears each flag: whenever a step
changes a flag, it is the step R30 names for it. `BUSY` is set by the acceptance of a word written to CMD and cleared by a
completion; `DONE` is set by a completion and cleared by an acceptance; `ERR` is set by a failing completion and cleared by a
host write of 1 to bit 2 while `BUSY` = 0; `OVR` is set by a dropped write and cleared by a host write of 1 to bit 3; and reset
clears them all. -/
def Obligations.FlagChangesByAgent : Prop :=
  ∀ s t : State, step s = .next t →
    (s.status.busy = false → t.status.busy = true → s.nextAgent = .host ∧ s.ready ∧
      ∃ rest, s.env.program = .access (.write 0x04 4 t.cmd) :: rest) ∧
    (s.status.busy = true → t.status.busy = false → s.completing ∨ s.nextAgent = .reset) ∧
    (s.status.done = false → t.status.done = true → s.completing ∧ t.status.busy = false ∧ t.status.err = s.status.err) ∧
    (s.status.done = true → t.status.done = false → s.nextAgent = .reset ∨
      (s.nextAgent = .host ∧ s.ready ∧ t.status.busy = true ∧ ∃ rest, s.env.program = .access (.write 0x04 4 t.cmd) :: rest)) ∧
    (s.status.err = false → t.status.err = true → s.completing ∧ t.status.busy = false ∧ t.status.done = s.status.done) ∧
    (s.status.err = true → t.status.err = false → s.nextAgent = .reset ∨
      (s.nextAgent = .host ∧ s.status.busy = false ∧
        ∃ v rest, s.env.program = .access (.write 0x00 4 v) :: rest ∧ v.getLsbD 2 = true)) ∧
    (s.status.ovr = false → t.status.ovr = true → s.nextAgent = .host ∧
      ∃ a v rest, s.env.program = .access (.write a 4 v) :: rest ∧
        ((a = 0x04 ∧ ¬ s.ready) ∨ (s.status.busy = true ∧ ∃ i : RegIndex,
          a ∈ [0x40 + 4 * i.val, 0x60 + 16 * i.val, 0x64 + 16 * i.val, 0x68 + 16 * i.val, 0xA0 + 4 * i.val, 0xB0 + 4 * i.val]))) ∧
    (s.status.ovr = true → t.status.ovr = false → s.nextAgent = .reset ∨
      (s.nextAgent = .host ∧ ∃ v rest, s.env.program = .access (.write 0x00 4 v) :: rest ∧ v.getLsbD 3 = true))

/-- 10_state.md section 6 (R30): no command reads a flag, and none reads CMD, ERRCMD or the outside: two states with the same
data registers end with the same data registers, and both succeed or both fail with the same code. -/
def Obligations.CommandsReadDataRegistersOnly : Prop :=
  ∀ (i : Instr) (s u : State), s.sameData u → ∃ t v, exec i s = .next t ∧ exec i u = .next v ∧ t.sameData v ∧
    ((t.status = { s.status with busy := false, done := true } ∧ v.status = { u.status with busy := false, done := true }) ∨
      ∃ e : ErrorKind, t.status = { s.status with busy := false, err := true, errCode := e.code } ∧
        v.status = { u.status with busy := false, err := true, errCode := e.code })

/-! ## modular_inverse_engine -/

/-- R83: what modInverse is. -/
def Obligations.ModInverseIsTheUniqueInverse : Prop :=
  (∀ (a : Int) (p : Nat), 1 ≤ p → Int.gcd a p = 1 →
    ∃ v, modInverse a p = .ok v ∧ isInverse v a p ∧ ∀ u, isInverse u a p → u = v) ∧
  (∀ (a : Int) (p : Nat), 1 ≤ p → Int.gcd a p ≠ 1 → modInverse a p = .error .noInverseExists) ∧
  (∀ (a : Int) (p : Nat), 2 ≤ p → a % p = 0 → modInverse a p = .error .noInverseExists) ∧
  (∀ a : Int, modInverse a 1 = .ok 0) ∧ (∀ a : Int, modInverse a 0 = .error .noInverseExists) ∧
  (∀ (a j : Int) (p : Nat), modInverse (a + j * p) p = modInverse a p)

/-- 40_modinv.md section 2 (R82): the loop's invariant after any number of passes, that it ends by itself within as many passes
as the first remainder, further passes changing nothing, and that it ends with the gcd. -/
def Obligations.EuclidLoopInvariantAndEnd : Prop :=
  ∀ (a : Int) (p : Nat), 1 ≤ p →
    (∀ n : Nat, (p : Int) ∣ (euclidLoop n (euclidStart a p)).t0 * a - (euclidLoop n (euclidStart a p)).r0 ∧
      (p : Int) ∣ (euclidLoop n (euclidStart a p)).t1 * a - (euclidLoop n (euclidStart a p)).r1) ∧
    (∀ n : Nat, (euclidStart a p).r1 ≤ n →
      (euclidLoop n (euclidStart a p)).r1 = 0 ∧ (euclidLoop n (euclidStart a p)).r0 = Int.gcd a p ∧
      euclidLoop n (euclidStart a p) = euclidLoop (euclidStart a p).r1 (euclidStart a p))

/-- R84: MODINV, its encoding, its result, its failure, on every state and all operands. -/
def Obligations.ModinvCommand : Prop :=
  (∀ w : Word, w &&& 0xFFFCCCFF#32 = 0x00000001#32 ↔
    decode w = .ok (.modinv (w.extractLsb' 8 4) (w.extractLsb' 12 4) (w.extractLsb' 16 4))) ∧
  ∀ (s : State) (d a m : RegIndex),
    (s.x[m.val].toNat ≠ 0 → Int.gcd s.x[a.val].toInt s.x[m.val].toNat = 1 →
      ∃ v, isInverse v s.x[a.val].toInt s.x[m.val].toNat ∧
        exec (.modinv (indexField d) (indexField a) (indexField m)) s = .next (s.afterInt d (BitVec.ofInt 32 v))) ∧
    (s.x[m.val].toNat = 0 ∨ Int.gcd s.x[a.val].toInt s.x[m.val].toNat ≠ 1 →
      exec (.modinv (indexField d) (indexField a) (indexField m)) s = .next (s.afterError 1#4))

/-! ## ecc_point_add_double -/

/-- R95: PADD, its encoding, its range checks and its result by the cases of `add`, on every state and all operands. With the
hardware's `P` it raises no other error. -/
def Obligations.PaddCommand : Prop :=
  (∀ w : Word, w &&& 0xFFFCCCFF#32 = 0x00000002#32 ↔
    decode w = .ok (.padd (w.extractLsb' 8 4) (w.extractLsb' 12 4) (w.extractLsb' 16 4))) ∧
  ∀ (s : State) (d a b : RegIndex) (q1 q2 : PointReg), s.pt[a.val] = q1 → s.pt[b.val] = q2 →
    (q1.outOfRange ∨ q2.outOfRange →
      exec (.padd (indexField d) (indexField a) (indexField b)) s = .next (s.afterError 4#4)) ∧
    (¬ q1.outOfRange → ¬ q2.outOfRange →
      (q1.inf = true → q2.inf = true →
        exec (.padd (indexField d) (indexField a) (indexField b)) s = .next (s.afterPoint d identityReg)) ∧
      (q1.inf = true → q2.inf = false →
        exec (.padd (indexField d) (indexField a) (indexField b)) s = .next (s.afterPoint d q2)) ∧
      (q1.inf = false → q2.inf = true →
        exec (.padd (indexField d) (indexField a) (indexField b)) s = .next (s.afterPoint d q1)) ∧
      (q1.inf = false → q2.inf = false → ∀ x1 y1 x2 y2 : Int, x1 = q1.x.toNat → y1 = q1.y.toNat → x2 = q2.x.toNat →
        y2 = q2.y.toNat →
        (x1 = x2 → y1 = y2 → y1 = 0 →
          exec (.padd (indexField d) (indexField a) (indexField b)) s = .next (s.afterPoint d identityReg)) ∧
        (x1 = x2 → y1 = y2 → y1 ≠ 0 → ∃ i sl x3, isInverse i (2 * y1) Config.curve.P ∧
          sl = (3 * (x1 * x1) + Config.curve.A) * i % Config.curve.P ∧ x3 = (sl * sl - 2 * x1) % Config.curve.P ∧
          exec (.padd (indexField d) (indexField a) (indexField b)) s =
            .next (s.afterPoint d (affineReg x3 ((sl * (x1 - x3) - y1) % Config.curve.P)))) ∧
        (x1 = x2 → y1 ≠ y2 →
          exec (.padd (indexField d) (indexField a) (indexField b)) s = .next (s.afterPoint d identityReg)) ∧
        (x1 ≠ x2 → ∃ i sl x3, isInverse i (x2 - x1) Config.curve.P ∧ sl = (y2 - y1) * i % Config.curve.P ∧
          x3 = (sl * sl - x1 - x2) % Config.curve.P ∧
          exec (.padd (indexField d) (indexField a) (indexField b)) s =
            .next (s.afterPoint d (affineReg x3 ((sl * (x1 - x3) - y1) % Config.curve.P))))))

/-- R96: PDBL, its encoding, its range check and its result by the cases of `double`, on every state and all operands. With the
hardware's `P` it raises no other error. -/
def Obligations.PdblCommand : Prop :=
  (∀ w : Word, w &&& 0xFFFFCCFF#32 = 0x00000003#32 ↔ decode w = .ok (.pdbl (w.extractLsb' 8 4) (w.extractLsb' 12 4))) ∧
  ∀ (s : State) (d a : RegIndex) (q : PointReg), s.pt[a.val] = q →
    (q.outOfRange → exec (.pdbl (indexField d) (indexField a)) s = .next (s.afterError 4#4)) ∧
    (¬ q.outOfRange →
      (q.inf = true → exec (.pdbl (indexField d) (indexField a)) s = .next (s.afterPoint d identityReg)) ∧
      (q.inf = false → q.y.toNat = 0 →
        exec (.pdbl (indexField d) (indexField a)) s = .next (s.afterPoint d identityReg)) ∧
      (q.inf = false → q.y.toNat ≠ 0 → ∀ x y : Int, x = q.x.toNat → y = q.y.toNat →
        ∃ i sl x3, isInverse i (2 * y) Config.curve.P ∧ sl = (3 * (x * x) + Config.curve.A) * i % Config.curve.P ∧
          x3 = (sl * sl - 2 * x) % Config.curve.P ∧
          exec (.pdbl (indexField d) (indexField a)) s =
            .next (s.afterPoint d (affineReg x3 ((sl * (x - x3) - y) % Config.curve.P)))))

/-- R97: LDG, its encoding and its result, on every state; it raises no error. -/
def Obligations.LdgCommand : Prop :=
  (∀ w : Word, w &&& 0xFFFFFCFF#32 = 0x00000006#32 ↔ decode w = .ok (.ldg (w.extractLsb' 8 4))) ∧
  ∀ (s : State) (d : RegIndex), exec (.ldg (indexField d)) s = .next (s.afterPoint d (affineReg 2 9))

/-- 41_point_algebra.md section 2 (R93): `add` is symmetric for all operands that are `Identity` or in range, on the curve or
not, for every curve record. -/
def Obligations.AddIsSymmetric : Prop :=
  ∀ (c : CurveParams) (Q1 Q2 : Point), c.wellFormed = true → Q1.inRange c = true → Q2.inRange c = true →
    add c Q1 Q2 = add c Q2 Q1

/-- 41_point_algebra.md section 2 (R94): for an odd prime `P`, `add` and `double` of in-range points do not fail and give an
in-range point; for every curve record their only failure is NoInverseExists. -/
def Obligations.AddAndDoubleFailOnlyWithoutInverse : Prop :=
  (∀ (c : CurveParams) (Q1 Q2 : Point), c.P.Prime → c.P ≠ 2 → Q1.inRange c = true → Q2.inRange c = true →
    (∃ R, add c Q1 Q2 = .ok R ∧ R.inRange c = true) ∧ (∃ R, double c Q1 = .ok R ∧ R.inRange c = true)) ∧
  (∀ (c : CurveParams) (Q1 Q2 : Point) (e : ErrorKind),
    (add c Q1 Q2 = .error e → e = .noInverseExists) ∧ (double c Q1 = .error e → e = .noInverseExists))

/-- 41_point_algebra.md section 4 (R98): `Identity` is neutral for every Point value, and adding the point with the same x and
the opposite y gives `Identity` when `P` is odd (for an even `P` the point with 2*y = P has no double). -/
def Obligations.AddNeutralAndOpposite : Prop :=
  ∀ (c : CurveParams) (Q : Point), add c Q .identity = .ok Q ∧ add c .identity Q = .ok Q ∧
    ∀ x y : Int, c.P % 2 = 1 → Q = .affine x y → Q.inRange c = true →
      add c Q (.affine x (emod (-y) c.P)) = .ok .identity

/-- 41_point_algebra.md section 1 (R90, general knowledge of the spec): for an odd prime `P`, the sum and the double of points
on the curve are on the curve. -/
def Obligations.SumOfCurvePointsIsOnTheCurve : Prop :=
  ∀ (c : CurveParams) (Q1 Q2 R : Point), c.P.Prime → c.P ≠ 2 → onCurve c Q1 = true → onCurve c Q2 = true →
    (add c Q1 Q2 = .ok R → onCurve c R = true) ∧ (double c Q1 = .ok R → onCurve c R = true)

/-! ## ecc_scalar_mult -/

/-- R101: SMUL, its encoding, the order of its checks and its result, on every state and all operands. With the hardware's `P`
it raises no other error. -/
def Obligations.SmulCommand : Prop :=
  (∀ w : Word, w &&& 0xFFFCCCFF#32 = 0x00000004#32 ↔
    decode w = .ok (.smul (w.extractLsb' 8 4) (w.extractLsb' 12 4) (w.extractLsb' 16 4))) ∧
  ∀ (s : State) (d a r : RegIndex) (k : Int) (q : PointReg), s.x[r.val].toInt = k → s.pt[a.val] = q →
    (k < 0 → exec (.smul (indexField d) (indexField a) (indexField r)) s = .next (s.afterError 2#4)) ∧
    (0 ≤ k → q.outOfRange → exec (.smul (indexField d) (indexField a) (indexField r)) s = .next (s.afterError 4#4)) ∧
    (0 ≤ k → ¬ q.outOfRange → ∃ R, scalarMultiply Config.curve k q.point = .ok R ∧ R.inRange Config.curve = true ∧
      exec (.smul (indexField d) (indexField a) (indexField r)) s = .next (s.afterPoint d (PointReg.ofPoint R)) ∧
      (k = 0 → R = .identity) ∧ (k = 1 → R = q.point) ∧ (q.inf = true → R = .identity))

/-- 42_scalar_mult.md sections 1 and 2 (R100, R102): the loop, for every curve record and every point, on the curve or not. One
pass: nothing when `n` = 0; else `R' = add(R, Q)` when `n` is odd and `R' = R` when it is even, `Q' = double(Q)`, `n' = n div 2`,
and a failure of either ends the loop with it. `scalarMultiply` is `R` after `bitlen(k)` passes from `(Identity, Q0, k)`, and a
negative `k` fails with InvalidScalar. The loop runs exactly `bitlen(k)` steps: after `j` steps `k` div 2^j is left, which is 0
from step `bitlen(k)` on and not before; a larger number of allowed steps changes nothing; up to `KMAX` there are at most 31. -/
def Obligations.ScalarMultiplyStepCount : Prop :=
  (∀ (c : CurveParams) (j : Nat) (R Q : Point), smulLoop c j { R := R, Q := Q, n := 0 } = .ok { R := R, Q := Q, n := 0 }) ∧
  (∀ (c : CurveParams) (j n : Nat) (R Q : Point), n ≠ 0 →
    (∀ R' Q', (n % 2 = 1 → add c R Q = .ok R') → (n % 2 = 0 → R' = R) → double c Q = .ok Q' →
      smulLoop c (j + 1) { R := R, Q := Q, n := n } = smulLoop c j { R := R', Q := Q', n := n / 2 }) ∧
    (∀ e, n % 2 = 1 → add c R Q = .error e → smulLoop c (j + 1) { R := R, Q := Q, n := n } = .error e) ∧
    (∀ R' e, (n % 2 = 1 → add c R Q = .ok R') → double c Q = .error e →
      smulLoop c (j + 1) { R := R, Q := Q, n := n } = .error e)) ∧
  (∀ (c : CurveParams) (k : Int) (Q0 : Point),
    (k < 0 → scalarMultiply c k Q0 = .error .invalidScalar) ∧
    (∀ m, 0 ≤ k → smulLoop c (bitlen k.toNat) { R := .identity, Q := Q0, n := k.toNat } = .ok m → scalarMultiply c k Q0 = .ok m.R) ∧
    (∀ e, 0 ≤ k → smulLoop c (bitlen k.toNat) { R := .identity, Q := Q0, n := k.toNat } = .error e →
      scalarMultiply c k Q0 = .error e)) ∧
  (∀ (c : CurveParams) (j k : Nat) (Q0 : Point) (m : SmulState),
    smulLoop c j { R := .identity, Q := Q0, n := k } = .ok m → m.n = k / 2 ^ j) ∧
  (∀ j k : Nat, k / 2 ^ j = 0 ↔ bitlen k ≤ j) ∧
  (∀ (c : CurveParams) (j k : Nat) (Q0 : Point), bitlen k ≤ j →
    smulLoop c j { R := .identity, Q := Q0, n := k } = smulLoop c (bitlen k) { R := .identity, Q := Q0, n := k }) ∧
  (∀ k : Nat, k ≤ Config.kmax → bitlen k ≤ 31)

/-- 42_scalar_mult.md section 3 (R103): `scalarMultiply(0, P)` is `Identity` for all P; for all valid scalars the two orders of
multiplying G agree; `scalarMultiply(k, G)` by `k` modulo 4, and the fixed vector. -/
def Obligations.ScalarMultiplyOfTheGenerator : Prop :=
  (∀ (c : CurveParams) (Q : Point), scalarMultiply c 0 Q = .ok .identity) ∧
  (∀ k1 k2 : Nat, ∃ Q1 Q2 R, scalarMultiply Config.curve k1 (.affine 2 9) = .ok Q1 ∧
    scalarMultiply Config.curve k2 (.affine 2 9) = .ok Q2 ∧
    scalarMultiply Config.curve k1 Q2 = .ok R ∧ scalarMultiply Config.curve k2 Q1 = .ok R) ∧
  (∀ k : Nat, scalarMultiply Config.curve k (.affine 2 9) =
    .ok (if k % 4 = 0 then .identity else if k % 4 = 1 then .affine 2 9 else if k % 4 = 2 then .affine 5 0 else .affine 2 92)) ∧
  scalarMultiply Config.curve 2 (.affine 2 9) = double Config.curve (.affine 2 9)

/-- 42_scalar_mult.md section 3 (R103, general knowledge of the spec): on this hardware's curve, `scalarMultiply(k, Q)` of a
point on the curve is the `k`-fold sum of `Q`. -/
def Obligations.ScalarMultiplyIsRepeatedSum : Prop :=
  ∀ (Q : Point) (k : Nat), onCurve Config.curve Q = true →
    ∃ R, scalarMultiply Config.curve k Q = .ok R ∧ repeatedSum Config.curve Q k = .ok R ∧ onCurve Config.curve R = true

/-- 42_scalar_mult.md section 3 (R103, for points other than the multiples of G general knowledge of the spec, K6): key agreement.
For every point on this hardware's curve the two orders of multiplying it by two scalars reach the identical point. -/
def Obligations.KeyAgreementCommutes : Prop :=
  ∀ (Q : Point) (k1 k2 : Nat), onCurve Config.curve Q = true → ∃ Q1 Q2 R, scalarMultiply Config.curve k1 Q = .ok Q1 ∧
    scalarMultiply Config.curve k2 Q = .ok Q2 ∧ scalarMultiply Config.curve k1 Q2 = .ok R ∧
    scalarMultiply Config.curve k2 Q1 = .ok R

/-! ## ecc_key_derive_kdf -/

/-- R110: the decimal string. -/
def Obligations.DecimalIsCanonical : Prop :=
  ∀ n : Nat, decimalValue (decimal n) = n ∧ (∀ b ∈ decimal n, 0x30 ≤ b.toNat ∧ b.toNat ≤ 0x39) ∧
    ((decimal n).head? = some 0x30#8 → n = 0) ∧ decimal 0 = [0x30#8] ∧ 1 ≤ (decimal n).length ∧
    (n < 101 → (decimal n).length ≤ 3) ∧ (n < 2 ^ 32 → (decimal n).length ≤ 10)

/-- R112: the characters of the hex digest, for a digest of any length. -/
def Obligations.HexdigestCharacters : Prop :=
  ∀ (n : Nat) (d : Vector Byte n) (j : Nat) (hj : j < n),
    ((hexdigest d)[2 * j]'(by omega)).toNat =
      (if d[j].toNat / 16 < 10 then 0x30 + d[j].toNat / 16 else 0x61 + (d[j].toNat / 16 - 10)) ∧
    ((hexdigest d)[2 * j + 1]'(by omega)).toNat =
      (if d[j].toNat % 16 < 10 then 0x30 + d[j].toNat % 16 else 0x61 + (d[j].toNat % 16 - 10))

/-- R43: the little-endian packing of 16 bytes into four words: byte `i` is bits `8*(i mod 4) + 7 : 8*(i mod 4)` of word
`i div 4`. -/
def Obligations.BytesPackLittleEndian : Prop :=
  (∀ (b : Vector Byte 16) (i : Nat) (hi : i < 16), (packWords b)[i / 4].extractLsb' (8 * (i % 4)) 8 = b[i]) ∧
  (packWords #v[0x31#8, 0x39#8, 0x35#8, 0x38#8, 0x31#8, 0x65#8, 0x32#8, 0x37#8, 0x64#8, 0x65#8, 0x37#8, 0x63#8, 0x65#8, 0x64#8,
    0x30#8, 0x30#8])[0] = 0x38353931#32

/-- R116 with R113 and R115: KDF, its encoding, the order of its checks, and its result, for whatever function HASH is, on
every state and all operands. -/
def Obligations.KdfCommand : Prop :=
  (∀ w : Word, w &&& 0xFFFFCFFF#32 = 0x00000005#32 ↔ decode w = .ok (.kdf (w.extractLsb' 12 4))) ∧
  ∀ (s : State) (a : RegIndex) (q : PointReg), s.pt[a.val] = q →
    (q.inf = true → exec (.kdf (indexField a)) s = .next (s.afterError 5#4)) ∧
    (q.outOfRange → exec (.kdf (indexField a)) s = .next (s.afterError 4#4)) ∧
    (q.inf = false → ¬ q.outOfRange → ∃ iv key : Vector Word 4,
      exec (.kdf (indexField a)) s =
        .next { s with iv := iv, key := key, status := { s.status with busy := false, done := true } } ∧
      ∀ (i : Nat) (hi : i < 16),
        iv[i / 4].extractLsb' (8 * (i % 4)) 8 = (hexdigest (Config.hash.digest (decimal q.y.toNat)))[i]'(by omega) ∧
        key[i / 4].extractLsb' (8 * (i % 4)) 8 =
          (hexdigest (Config.hash.digest (decimal q.y.toNat)))[2 * (8 + Config.hash.extra) - 16 + i]'(by omega))

/-- 43_kdf.md section 2 (R114): the IV and the key depend on the y-coordinate only. -/
def Obligations.KdfIgnoresTheXCoordinate : Prop :=
  ∀ (s u : State) (a b : RegIndex), s.pt[a.val].inf = false → u.pt[b.val].inf = false → ¬ s.pt[a.val].outOfRange →
    ¬ u.pt[b.val].outOfRange → s.pt[a.val].y = u.pt[b.val].y →
    ∃ t v, exec (.kdf (indexField a)) s = .next t ∧ exec (.kdf (indexField b)) u = .next v ∧ t.iv = v.iv ∧ t.key = v.key

/-- 43_kdf.md section 4 (R117): after a KDF that succeeds, each of the 32 output bytes is a lower-case hexadecimal character,
whatever HASH is. -/
def Obligations.KdfOutputAlphabet : Prop :=
  ∀ (s : State) (a : RegIndex), s.pt[a.val].inf = false → ¬ s.pt[a.val].outOfRange →
    ∃ t, exec (.kdf (indexField a)) s = .next t ∧ t.status.done = true ∧
      ∀ i : Fin 16, isHexChar (packedByte t.iv i) ∧ isHexChar (packedByte t.key i)

/-! ## Errors -/

/-- 30_encoding.md section 2 (R64), 60_exceptions.md section 2 (R123): a command term with a register field of 4 to 15 raises
IllegalCommand. It is the model's reading of a term that no word decodes to (assumption log 6). -/
def Obligations.IllFormedCommandRaisesIllegalCommand : Prop :=
  ∀ (i : Instr) (s : State), i.wellFormed = false → exec i s = .next (s.afterError 3#4)

/-- 20_memory.md section 4 (R50), 60_exceptions.md section 3 (R124): a completion step either succeeds, with `DONE` and nothing
recorded, or fails with one of the five codes, and then it changes STATUS and ERRCMD as R124 says and nothing else. -/
def Obligations.CompletionEndsInDoneOrError : Prop :=
  ∀ s : State, s.completing → ∃ t, step s = .next t ∧
    ((t.status = { s.status with busy := false, done := true } ∧ t.errcmd = s.errcmd ∧ t.cmd = s.cmd) ∨
      ∃ n : BitVec 4, 1 ≤ n.toNat ∧ n.toNat ≤ 5 ∧ t = s.popTurn.afterError n)

/-- R126: while `ERR` = 1 no command is accepted, reads and data register writes work, CLRERR clears `ERR` and nothing else, and
the engine does not retry. -/
def Obligations.ErrorReturn : Prop :=
  (∀ (s : State) (w : Word), s.status.err = true →
    s.memWrite 0x04 4 w = { s with status := { s.status with ovr := true } }) ∧
  (∀ (s : State) (v : Word) (i : RegIndex), s.status.err = true → s.status.busy = false →
    (∀ r : WindowReg, s.memRead r.offset 4 = .data (s.readReg r)) ∧
    s.memWrite (0x40 + 4 * i.val) 4 v = { s with x := s.x.set i.val v } ∧
    s.memWrite (0x60 + 16 * i.val) 4 v = { s with pt := s.pt.set i.val { s.pt[i.val] with inf := v.getLsbD 0 } } ∧
    s.memWrite (0x64 + 16 * i.val) 4 v = { s with pt := s.pt.set i.val { s.pt[i.val] with x := v } } ∧
    s.memWrite (0x68 + 16 * i.val) 4 v = { s with pt := s.pt.set i.val { s.pt[i.val] with y := v } } ∧
    s.memWrite (0xA0 + 4 * i.val) 4 v = { s with iv := s.iv.set i.val v } ∧
    s.memWrite (0xB0 + 4 * i.val) 4 v = { s with key := s.key.set i.val v }) ∧
  (∀ s : State, s.status.err = true → s.status.busy = false →
    s.memWrite 0x00 4 0x00000004#32 = { s with status := { s.status with err := false } }) ∧
  (∀ s : State, s.status.err = true → s.status.busy = false → s.nextAgent = .engine →
    ∃ t, step s = .next t ∧ t.sameRegisters s)

/-- 60_exceptions.md section 3 (R125): a failed command has no effect but R124's, and issued again on the same registers after
`ERR` is cleared it fails in the same way. -/
def Obligations.FailedCommandFailsAgain : Prop :=
  ∀ (i : Instr) (s t : State), s.status.err = false → exec i s = .next t → t.status.err = true →
    t.sameData s ∧ t.cmd = s.cmd ∧ ∃ u, exec i (t.clearError.accept s.cmd) = .next u ∧ u.sameData t ∧ u.cmd = t.cmd ∧
      u.errcmd = t.errcmd ∧ u.status.err = true ∧ u.status.errCode = t.status.errCode ∧ u.status.busy = false

/-! ## Frames -/

/-- 10_state.md section 2 (R21), 20_memory.md section 4 (R50): what MODINV leaves unchanged, whether it succeeds or fails: every
register but `x[rd]`, STATUS and ERRCMD, and of STATUS the flag `OVR`; so every other offset reads as before. STATUS and ERRCMD
change as R50 and R124 say: a success sets `DONE` and clears `BUSY`, a failure is the error entry and nothing else. -/
def Obligations.IntegerCommandFrame : Prop :=
  ∀ (s t : State) (d a m : RegIndex), exec (.modinv (indexField d) (indexField a) (indexField m)) s = .next t →
    (∀ j : RegIndex, j ≠ d → t.x[j.val] = s.x[j.val]) ∧ t.pt = s.pt ∧ t.iv = s.iv ∧ t.key = s.key ∧ t.cmd = s.cmd ∧
    t.env = s.env ∧ t.status.ovr = s.status.ovr ∧
    ((t.errcmd = s.errcmd ∧ t.status = { s.status with busy := false, done := true }) ∨
      ∃ e : ErrorKind, t = s.afterError e.code) ∧
    ∀ addr size : Nat, addr ≠ 0x00 → addr ≠ 0x08 → addr ≠ 0x40 + 4 * d.val → t.memRead addr size = s.memRead addr size

/-- 10_state.md section 3 (R22), 20_memory.md section 4 (R50): what PADD, PDBL, SMUL and LDG leave unchanged, whether they
succeed or fail: every register but the three parts of `pt[pd]`, STATUS and ERRCMD, and of STATUS the flag `OVR`. -/
def Obligations.PointCommandFrame : Prop :=
  ∀ (s t : State) (d a b : RegIndex) (i : Instr),
    i ∈ [Instr.padd (indexField d) (indexField a) (indexField b), Instr.pdbl (indexField d) (indexField a),
      Instr.smul (indexField d) (indexField a) (indexField b), Instr.ldg (indexField d)] → exec i s = .next t →
    t.x = s.x ∧ (∀ j : RegIndex, j ≠ d → t.pt[j.val] = s.pt[j.val]) ∧ t.iv = s.iv ∧ t.key = s.key ∧ t.cmd = s.cmd ∧
    t.env = s.env ∧ t.status.ovr = s.status.ovr ∧
    ((t.errcmd = s.errcmd ∧ t.status = { s.status with busy := false, done := true }) ∨
      ∃ e : ErrorKind, t = s.afterError e.code) ∧
    ∀ addr size : Nat, addr ≠ 0x00 → addr ≠ 0x08 → addr ≠ 0x60 + 16 * d.val → addr ≠ 0x64 + 16 * d.val →
      addr ≠ 0x68 + 16 * d.val → t.memRead addr size = s.memRead addr size

/-- 10_state.md section 4 (R24), 20_memory.md section 4 (R50): what KDF leaves unchanged, whether it succeeds or fails: every
register but IV, KEY, STATUS and ERRCMD, and of STATUS the flag `OVR`. -/
def Obligations.KdfFrame : Prop :=
  ∀ (s t : State) (a : RegIndex), exec (.kdf (indexField a)) s = .next t →
    t.x = s.x ∧ t.pt = s.pt ∧ t.cmd = s.cmd ∧ t.env = s.env ∧ t.status.ovr = s.status.ovr ∧
    ((t.errcmd = s.errcmd ∧ t.status = { s.status with busy := false, done := true }) ∨
      ∃ e : ErrorKind, t = s.afterError e.code) ∧
    ∀ addr size : Nat, addr ≠ 0x00 → addr ≠ 0x08 → addr < 0xA0 ∨ 0xBC < addr → t.memRead addr size = s.memRead addr size

/-- 10_state.md sections 2 to 4 (R21, R22, R24): over all commands and words, the engine's step changes an integer register
only by MODINV, a point register only by PADD, PDBL, SMUL or LDG, and the IV and key only by KDF, and only when it succeeds. -/
def Obligations.EachRegisterFileHasItsCommands : Prop :=
  ∀ s t : State, s.nextAgent = .engine → step s = .next t →
    (t.x ≠ s.x → t.status.done = true ∧ ∃ d a m, decode s.cmd = .ok (.modinv d a m)) ∧
    (t.pt ≠ s.pt → t.status.done = true ∧ ((∃ d a b, decode s.cmd = .ok (.padd d a b)) ∨ (∃ d a, decode s.cmd = .ok (.pdbl d a)) ∨
      (∃ d a r, decode s.cmd = .ok (.smul d a r)) ∨ (∃ d, decode s.cmd = .ok (.ldg d)))) ∧
    (t.iv ≠ s.iv ∨ t.key ≠ s.key → t.status.done = true ∧ ∃ a, decode s.cmd = .ok (.kdf a))

/-! ## Invariants and whole-machine rules -/

/-- 10_state.md section 5 (R25): the invariant of the status registers holds after reset. -/
def Obligations.ResetMeetsTheInvariant : Prop := State.reset.Inv

/-- 10_state.md section 5 (R25), 60_exceptions.md section 4 (R126): every step of every agent keeps the invariant: `BUSY`,
`DONE` and `ERR` exclude each other, `ERRCODE` is a code of R120, and while `ERR` = 1 ERRCMD holds what CMD holds. -/
def Obligations.StepKeepsTheInvariant : Prop :=
  ∀ s t : State, s.Inv → step s = .next t → t.Inv

/-- 20_memory.md section 3 (R46), 70_reset_and_hazards.md section 2 (R143): while a command runs no turn of the host changes a
data register, CMD or ERRCMD, or ends it; of STATUS only `OVR` can change. -/
def Obligations.BusyProtectsTheRegisters : Prop :=
  ∀ s t : State, s.status.busy = true → s.nextAgent = .host → step s = .next t →
    t.sameData s ∧ t.cmd = s.cmd ∧ t.errcmd = s.errcmd ∧ t.status.busy = true ∧ t.status.done = s.status.done ∧
    t.status.err = s.status.err ∧ t.status.errCode = s.status.errCode

/-- 20_memory.md section 4 (R50): the delay is not visible. However many turns the host takes between acceptance and
completion, the completion leaves in every register but the flag `OVR` what it would have left at once. -/
def Obligations.CompletionDelayIsInvisible : Prop :=
  ∀ (s : State) (n : Nat) (ts : List Agent), s.status.busy = true → s.env.turns = List.replicate n .host ++ .engine :: ts →
    ∃ t u, Host.Core.run Sys2Proof.core (n + 1) s = .next t ∧ s.completion = .next u ∧
      t.sameData u ∧ t.cmd = u.cmd ∧ t.errcmd = u.errcmd ∧ t.status.busy = u.status.busy ∧ t.status.done = u.status.done ∧
      t.status.err = u.status.err ∧ t.status.errCode = u.status.errCode ∧ t.env.turns = ts

/-- 70_reset_and_hazards.md section 3 (R148): every accepted command completes after a finite time without any action by the
host: unless a reset comes, `BUSY` = 0 and `DONE` = 1 or `ERR` = 1 is reached within the turns that are listed and one more.
That the engine moves once no turn is listed is the model's fairness (assumption log 2). -/
def Obligations.EveryAcceptedCommandCompletes : Prop :=
  ∀ s : State, s.status.busy = true → Agent.reset ∉ s.env.turns →
    ∃ (k : Nat) (t : State), k ≤ s.env.turns.length + 1 ∧ Host.Core.run Sys2Proof.core k s = .next t ∧
      t.status.busy = false ∧ t.cmd = s.cmd ∧ (t.status.done = true ∨ t.status.err = true)

/-! ## Host programs -/

/-- 30_encoding.md section 3 (R68): WAIT reads STATUS again and again while `BUSY` = 1 and goes on after the first value with
`BUSY` = 0, which is the status of the command; the reads change no register. -/
def Obligations.WaitPollsUntilIdle : Prop :=
  ∀ (s : State) (rest : List HostOp), s.nextAgent = .host → s.env.program = pseudoWAIT ++ rest →
    ∃ t, step s = .next t ∧ t.sameRegisters s ∧ t.env.response = some (.data s.status.word) ∧
      (s.status.busy = true → t.env.program = pseudoWAIT ++ rest) ∧ (s.status.busy = false → t.env.program = rest)

/-- 42_scalar_mult.md section 4 (R105): KEYGEN on an idle, error-free hardware, for every private scalar the host may draw: the
sequence ends without an error with the scalar in `x[i]` and `k * G` in `pt[j]`, a point on the curve. The schedule is the one
in which the engine completes each command at once (assumption log 2). -/
def Obligations.KeygenLeavesThePublicPoint : Prop :=
  ∀ (s : State) (upperBound k : Nat) (i j : RegIndex), s.ready → s.env.turns = [] → s.env.program = keygen k i j →
    drawable upperBound k = true →
    ∃ t R, Host.Core.run Sys2Proof.core 7 s = .next t ∧ scalarMultiply Config.curve k (.affine 2 9) = .ok R ∧
      onCurve Config.curve R = true ∧ t.env.program = [] ∧ t.status.busy = false ∧ t.status.done = true ∧
      t.status.err = false ∧ t.x = s.x.set i.val (BitVec.ofNat 32 k) ∧ t.pt = s.pt.set j.val (PointReg.ofPoint R) ∧
      t.iv = s.iv ∧ t.key = s.key

/-- 42_scalar_mult.md section 4 (R106): SHARED on an idle, error-free hardware leaves `k` times the received point in `pt[d]`,
for every valid scalar and every in-range point, on the curve or not. The schedule is the one in which the engine completes
each command at once (assumption log 2). -/
def Obligations.SharedLeavesTheSharedSecret : Prop :=
  ∀ (s : State) (k : Nat) (Q : Point) (i a d : RegIndex), s.ready → s.env.turns = [] → s.env.program = shared k Q i a d →
    k ≤ Config.kmax → Q.inRange Config.curve = true →
    ∃ t R, Host.Core.run Sys2Proof.core 7 s = .next t ∧ scalarMultiply Config.curve k Q = .ok R ∧
      t.env.program = [] ∧ t.status.busy = false ∧ t.status.done = true ∧ t.status.err = false ∧
      t.x = s.x.set i.val (BitVec.ofNat 32 k) ∧
      t.pt = (s.pt.set a.val (PointReg.ofPoint Q)).set d.val (PointReg.ofPoint R) ∧ t.iv = s.iv ∧ t.key = s.key

/-- 42_scalar_mult.md section 4 (R106): a step of a sequence that ends with `ERR` = 1 ends the sequence. -/
def Obligations.SequenceEndsOnAnError : Prop :=
  ∀ (s : State) (rest : List HostOp), s.nextAgent = .host → s.env.program = .wait true :: rest → s.status.busy = false →
    ∃ t, step s = .next t ∧ t.sameRegisters s ∧
      (s.status.err = true → t.env.program = []) ∧ (s.status.err = false → t.env.program = rest)

/-- 30_encoding.md section 3 (R68): RUN of any well-formed command on an idle, error-free hardware, with any program after it:
the command is accepted, completes with the effect `exec` gives it on the registers as they stood, and WAIT goes on with its
status. The schedule is the one in which the engine completes each command at once (assumption log 2). -/
def Obligations.RunLeavesTheCommandsEffect : Prop :=
  ∀ (s : State) (i : Instr) (rest : List HostOp), s.ready → s.env.turns = [] → s.env.program = pseudoRUN i ++ rest →
    i.wellFormed = true →
    ∃ t u, Host.Core.run Sys2Proof.core 3 s = .next t ∧ exec i s = .next u ∧ t.sameData u ∧ t.cmd = encode i ∧
      t.env.program = rest ∧ t.env.response = some (.data t.status.word) ∧ t.status.busy = false ∧
      t.status.done = !t.status.err ∧ t.status.err = u.status.err ∧ t.status.errCode = u.status.errCode ∧
      t.status.ovr = s.status.ovr

/-- 30_encoding.md section 3 (R69): the sequences of `modInverse`, `add` and `deriveSymmetricKey`, which load operands or read
results around their RUN, on an idle, error-free hardware. `modInverse` leaves the inverse in `x[d]`, or ends with ERR = 1 and
code 1; `add` of in-range points leaves the sum in `pt[d]`; the eight reads of `deriveSymmetricKey` answer the IV and key words
that KDF leaves. The schedule is the one in which the engine completes each command at once (assumption log 2); which registers
are used is the caller's (assumption log 21). -/
def Obligations.OperationSequencesReachTheirResults : Prop :=
  (∀ (s : State) (a : Int) (p : Nat) (d i m : RegIndex), s.ready → s.env.turns = [] → i ≠ m → -2 ^ 31 ≤ a → a < 2 ^ 31 →
    p < 2 ^ 32 → s.env.program = sequenceModInverse a p d i m →
    ∃ t, Host.Core.run Sys2Proof.core 5 s = .next t ∧ t.env.program = [] ∧ t.status.busy = false ∧
      (∀ v, modInverse a p = .ok v → (t.x[d.val].toNat : Int) = v ∧ t.status.done = true ∧ t.status.err = false) ∧
      (∀ e, modInverse a p = .error e → t.status.done = false ∧ t.status.err = true ∧ t.status.errCode = 1#4)) ∧
  (∀ (s : State) (P1 P2 : Point) (d i j : RegIndex), s.ready → s.env.turns = [] → i ≠ j → P1.inRange Config.curve = true →
    P2.inRange Config.curve = true → s.env.program = sequenceAdd P1 P2 d i j →
    ∃ t R, Host.Core.run Sys2Proof.core 9 s = .next t ∧ t.env.program = [] ∧ add Config.curve P1 P2 = .ok R ∧
      t.pt[d.val] = PointReg.ofPoint R ∧ t.status.busy = false ∧ t.status.done = true ∧ t.status.err = false) ∧
  (∀ (s : State) (a : RegIndex), s.ready → s.env.turns = [] → s.env.program = sequenceDeriveSymmetricKey a →
    ∃ u, exec (.kdf (indexField a)) s = .next u ∧ ∀ n : Fin 4,
      (∃ t, Host.Core.run Sys2Proof.core (4 + n.val) s = .next t ∧ t.env.response = some (.data u.iv[n.val])) ∧
      (∃ t, Host.Core.run Sys2Proof.core (8 + n.val) s = .next t ∧ t.env.response = some (.data u.key[n.val])))
end

