-- ==== Sys2Proof/Laws/PerInstr.lean ====
section
/-! SUPPORT. Statements for all commands, one lemma per constructor: the fields of a command's word (30_encoding.md R61, R63). -/

namespace Sys2Proof

/-- The five fields of an assembled word are what it was assembled from (R61). -/
theorem fields_assemble (rs2 rs1 rd : RegField) (op : BitVec 8) :
    fieldOp (assemble rs2 rs1 rd op) = op ∧ fieldRd (assemble rs2 rs1 rd op) = rd ∧ fieldRs1 (assemble rs2 rs1 rd op) = rs1 ∧
      fieldRs2 (assemble rs2 rs1 rd op) = rs2 ∧ fieldZero (assemble rs2 rs1 rd op) = 0#12 := by
  refine ⟨?_, ?_, ?_, ?_, ?_⟩ <;>
   (ext j hj
    simp only [fieldOp, fieldRd, fieldRs1, fieldRs2, fieldZero, assemble, BitVec.getElem_extractLsb', BitVec.getLsbD_append]
    repeat (first | rw [if_pos (by omega)] | rw [if_neg (by omega)])
    simp only [← BitVec.getLsbD_eq_getElem]
    congr 1; omega)

end Sys2Proof

namespace Sys2Proof.Laws.EncodingFields

/-- A command's word carries its opcode, its register fields, 0 in the fields it does not use and 0 in bits 31:20 (R61, R63). -/
def Statement (i : Instr) : Prop :=
  fieldOp (encode i) = i.opcode ∧ fieldRd (encode i) = i.rdField ∧ fieldRs1 (encode i) = i.rs1Field ∧
    fieldRs2 (encode i) = i.rs2Field ∧ fieldZero (encode i) = 0#12

theorem modinv (rd ra rm : RegField) : Statement (.modinv rd ra rm) := fields_assemble _ _ _ _
theorem padd (pd ps1 ps2 : RegField) : Statement (.padd pd ps1 ps2) := fields_assemble _ _ _ _
theorem pdbl (pd ps1 : RegField) : Statement (.pdbl pd ps1) := fields_assemble _ _ _ _
theorem smul (pd ps1 rk : RegField) : Statement (.smul pd ps1 rk) := fields_assemble _ _ _ _
theorem kdf (ps1 : RegField) : Statement (.kdf ps1) := fields_assemble _ _ _ _
theorem ldg (pd : RegField) : Statement (.ldg pd) := fields_assemble _ _ _ _

end Sys2Proof.Laws.EncodingFields
end

