-- ==== Sys2Proof/Laws/Decode.lean ====
section
/-! SUPPORT. The rows of the opcode map read field by field (30_encoding.md R61, R63, R64). -/

namespace Sys2Proof

/-- A word is its five fields, `zero` in the high bits (R61). -/
theorem word_eq_fields (w : Word) : w = fieldZero w ++ fieldRs2 w ++ fieldRs1 w ++ fieldRd w ++ fieldOp w := by
  apply BitVec.eq_of_getLsbD_eq
  intro i hi
  simp only [BitVec.getLsbD_append, fieldZero, fieldRs2, fieldRs1, fieldRd, fieldOp, BitVec.getLsbD_extractLsb']
  split_ifs
  all_goals (rw [decide_eq_true (by omega), Bool.true_and]; congr 1; omega)

/-- Two words put together from fields are equal when the fields are. -/
theorem append_inj {n m : Nat} {a b : BitVec n} {c d : BitVec m} : a ++ c = b ++ d ↔ a = b ∧ c = d := by
  constructor
  · intro h
    constructor
    · apply BitVec.eq_of_getLsbD_eq
      intro i hi
      simpa [BitVec.getLsbD_append] using congrArg (fun v => v.getLsbD (m + i)) h
    · apply BitVec.eq_of_getLsbD_eq
      intro i hi
      simpa [BitVec.getLsbD_append, hi] using congrArg (fun v => v.getLsbD i) h
  · rintro ⟨rfl, rfl⟩; rfl

/-- A mask over a word put together from fields is a mask over each field. -/
theorem masked_append (z : BitVec 12) (r2 r1 rd m2 m1 md : RegField) (op p : BitVec 8) :
    (z ++ r2 ++ r1 ++ rd ++ op) &&& (0xFFF#12 ++ m2 ++ m1 ++ md ++ 0xFF#8) = 0#12 ++ 0#4 ++ 0#4 ++ 0#4 ++ p ↔
      z = 0#12 ∧ r2 &&& m2 = 0#4 ∧ r1 &&& m1 = 0#4 ∧ rd &&& md = 0#4 ∧ op = p := by
  have hz : z &&& 0xFFF#12 = z := BitVec.and_allOnes
  have ho : op &&& 0xFF#8 = op := BitVec.and_allOnes
  simp only [BitVec.and_append, append_inj, hz, ho, and_assoc]

/-- What a row asks of the fields: the opcode, bits 31:20 all 0, and 0 in each register field under the row's mask for it. -/
theorem masked_iff_fields (w : Word) (m2 m1 md : RegField) (p : BitVec 8) :
    w &&& (0xFFF#12 ++ m2 ++ m1 ++ md ++ 0xFF#8) = 0#12 ++ 0#4 ++ 0#4 ++ 0#4 ++ p ↔
      fieldZero w = 0#12 ∧ fieldRs2 w &&& m2 = 0#4 ∧ fieldRs1 w &&& m1 = 0#4 ∧ fieldRd w &&& md = 0#4 ∧ fieldOp w = p := by
  conv_lhs => rw [word_eq_fields w]
  exact masked_append _ _ _ _ _ _ _ _ _

/-- The mask `1100` keeps a field to 0 to 3 (R64). -/
theorem and_C_eq_zero (r : RegField) : r &&& 0xC#4 = 0#4 ↔ RegField.legal r = true := by
  revert r; decide

/-- The mask `1111` keeps a field to 0 (R64). -/
theorem and_F_eq_zero (r : RegField) : r &&& 0xF#4 = 0#4 ↔ r = 0#4 := by
  revert r; decide

/-- MODINV, PADD and SMUL use all three register fields (R63). -/
theorem threeField_row (w : Word) (p : BitVec 8) : w &&& 0xFFFCCCFF#32 = 0#12 ++ 0#4 ++ 0#4 ++ 0#4 ++ p ↔
    fieldZero w = 0#12 ∧ RegField.legal (fieldRs2 w) = true ∧ RegField.legal (fieldRs1 w) = true ∧
      RegField.legal (fieldRd w) = true ∧ fieldOp w = p := by
  have := masked_iff_fields w 0xC#4 0xC#4 0xC#4 p
  simp only [and_C_eq_zero] at this
  exact this

theorem rowModinv_iff (w : Word) : rowModinv.holds w = true ↔ fieldZero w = 0#12 ∧ RegField.legal (fieldRs2 w) = true ∧
    RegField.legal (fieldRs1 w) = true ∧ RegField.legal (fieldRd w) = true ∧ fieldOp w = 0x01#8 := by
  simpa [OpcodeRow.holds, rowModinv] using threeField_row w 0x01#8

theorem rowPadd_iff (w : Word) : rowPadd.holds w = true ↔ fieldZero w = 0#12 ∧ RegField.legal (fieldRs2 w) = true ∧
    RegField.legal (fieldRs1 w) = true ∧ RegField.legal (fieldRd w) = true ∧ fieldOp w = 0x02#8 := by
  simpa [OpcodeRow.holds, rowPadd] using threeField_row w 0x02#8

theorem rowPdbl_iff (w : Word) : rowPdbl.holds w = true ↔ fieldZero w = 0#12 ∧ fieldRs2 w = 0#4 ∧
    RegField.legal (fieldRs1 w) = true ∧ RegField.legal (fieldRd w) = true ∧ fieldOp w = 0x03#8 := by
  have := masked_iff_fields w 0xF#4 0xC#4 0xC#4 0x03#8
  simp only [and_C_eq_zero, and_F_eq_zero] at this
  simpa [OpcodeRow.holds, rowPdbl] using this

theorem rowSmul_iff (w : Word) : rowSmul.holds w = true ↔ fieldZero w = 0#12 ∧ RegField.legal (fieldRs2 w) = true ∧
    RegField.legal (fieldRs1 w) = true ∧ RegField.legal (fieldRd w) = true ∧ fieldOp w = 0x04#8 := by
  simpa [OpcodeRow.holds, rowSmul] using threeField_row w 0x04#8

theorem rowKdf_iff (w : Word) : rowKdf.holds w = true ↔ fieldZero w = 0#12 ∧ fieldRs2 w = 0#4 ∧
    RegField.legal (fieldRs1 w) = true ∧ fieldRd w = 0#4 ∧ fieldOp w = 0x05#8 := by
  have := masked_iff_fields w 0xF#4 0xC#4 0xF#4 0x05#8
  simp only [and_C_eq_zero, and_F_eq_zero] at this
  simpa [OpcodeRow.holds, rowKdf] using this

theorem rowLdg_iff (w : Word) : rowLdg.holds w = true ↔ fieldZero w = 0#12 ∧ fieldRs2 w = 0#4 ∧ fieldRs1 w = 0#4 ∧
    RegField.legal (fieldRd w) = true ∧ fieldOp w = 0x06#8 := by
  have := masked_iff_fields w 0xF#4 0xF#4 0xC#4 0x06#8
  simp only [and_C_eq_zero, and_F_eq_zero] at this
  simpa [OpcodeRow.holds, rowLdg] using this

/-- A word whose fields are known is put together from them. -/
theorem assemble_of_fields {w : Word} {rs2 rs1 rd : RegField} {op : BitVec 8} (hz : fieldZero w = 0#12) (h2 : fieldRs2 w = rs2)
    (h1 : fieldRs1 w = rs1) (hd : fieldRd w = rd) (ho : fieldOp w = op) : assemble rs2 rs1 rd op = w := by
  rw [word_eq_fields w, hz, h2, h1, hd, ho]
  rfl

end Sys2Proof
end

