-- ==== Sys2Proof/Laws/State.lean ====
section
/-! SUPPORT. One lemma per field per update of State and Status, true by definition, so that no later proof unfolds a record update. -/

namespace Sys2Proof.Machine

/-! `writeX` changes `x` only. -/

@[simp] theorem State.writeX_x (s : State) (i : RegIndex) (v : Word) : (s.writeX i v).x = s.x.set i.val v := rfl
@[simp] theorem State.writeX_pt (s : State) (i : RegIndex) (v : Word) : (s.writeX i v).pt = s.pt := rfl
@[simp] theorem State.writeX_iv (s : State) (i : RegIndex) (v : Word) : (s.writeX i v).iv = s.iv := rfl
@[simp] theorem State.writeX_key (s : State) (i : RegIndex) (v : Word) : (s.writeX i v).key = s.key := rfl
@[simp] theorem State.writeX_status (s : State) (i : RegIndex) (v : Word) : (s.writeX i v).status = s.status := rfl
@[simp] theorem State.writeX_cmd (s : State) (i : RegIndex) (v : Word) : (s.writeX i v).cmd = s.cmd := rfl
@[simp] theorem State.writeX_errcmd (s : State) (i : RegIndex) (v : Word) : (s.writeX i v).errcmd = s.errcmd := rfl
@[simp] theorem State.writeX_env (s : State) (i : RegIndex) (v : Word) : (s.writeX i v).env = s.env := rfl

/-! `writePtReg` changes `pt` only. -/

@[simp] theorem State.writePtReg_x (s : State) (i : RegIndex) (r : PointReg) : (s.writePtReg i r).x = s.x := rfl
@[simp] theorem State.writePtReg_pt (s : State) (i : RegIndex) (r : PointReg) : (s.writePtReg i r).pt = s.pt.set i.val r := rfl
@[simp] theorem State.writePtReg_iv (s : State) (i : RegIndex) (r : PointReg) : (s.writePtReg i r).iv = s.iv := rfl
@[simp] theorem State.writePtReg_key (s : State) (i : RegIndex) (r : PointReg) : (s.writePtReg i r).key = s.key := rfl
@[simp] theorem State.writePtReg_status (s : State) (i : RegIndex) (r : PointReg) : (s.writePtReg i r).status = s.status := rfl
@[simp] theorem State.writePtReg_cmd (s : State) (i : RegIndex) (r : PointReg) : (s.writePtReg i r).cmd = s.cmd := rfl
@[simp] theorem State.writePtReg_errcmd (s : State) (i : RegIndex) (r : PointReg) : (s.writePtReg i r).errcmd = s.errcmd := rfl
@[simp] theorem State.writePtReg_env (s : State) (i : RegIndex) (r : PointReg) : (s.writePtReg i r).env = s.env := rfl

/-! `writePt` changes `pt` only. -/

@[simp] theorem State.writePt_x (s : State) (i : RegIndex) (Q : Point) : (s.writePt i Q).x = s.x := rfl
@[simp] theorem State.writePt_pt (s : State) (i : RegIndex) (Q : Point) : (s.writePt i Q).pt = s.pt.set i.val (PointReg.ofPoint Q) := rfl
@[simp] theorem State.writePt_iv (s : State) (i : RegIndex) (Q : Point) : (s.writePt i Q).iv = s.iv := rfl
@[simp] theorem State.writePt_key (s : State) (i : RegIndex) (Q : Point) : (s.writePt i Q).key = s.key := rfl
@[simp] theorem State.writePt_status (s : State) (i : RegIndex) (Q : Point) : (s.writePt i Q).status = s.status := rfl
@[simp] theorem State.writePt_cmd (s : State) (i : RegIndex) (Q : Point) : (s.writePt i Q).cmd = s.cmd := rfl
@[simp] theorem State.writePt_errcmd (s : State) (i : RegIndex) (Q : Point) : (s.writePt i Q).errcmd = s.errcmd := rfl
@[simp] theorem State.writePt_env (s : State) (i : RegIndex) (Q : Point) : (s.writePt i Q).env = s.env := rfl

/-! `writeKeys` changes `iv` and `key` only. -/

@[simp] theorem State.writeKeys_x (s : State) (a b : Vector Word 4) : (s.writeKeys a b).x = s.x := rfl
@[simp] theorem State.writeKeys_pt (s : State) (a b : Vector Word 4) : (s.writeKeys a b).pt = s.pt := rfl
@[simp] theorem State.writeKeys_iv (s : State) (a b : Vector Word 4) : (s.writeKeys a b).iv = a := rfl
@[simp] theorem State.writeKeys_key (s : State) (a b : Vector Word 4) : (s.writeKeys a b).key = b := rfl
@[simp] theorem State.writeKeys_status (s : State) (a b : Vector Word 4) : (s.writeKeys a b).status = s.status := rfl
@[simp] theorem State.writeKeys_cmd (s : State) (a b : Vector Word 4) : (s.writeKeys a b).cmd = s.cmd := rfl
@[simp] theorem State.writeKeys_errcmd (s : State) (a b : Vector Word 4) : (s.writeKeys a b).errcmd = s.errcmd := rfl
@[simp] theorem State.writeKeys_env (s : State) (a b : Vector Word 4) : (s.writeKeys a b).env = s.env := rfl

/-! `succeed` changes `status` only. -/

@[simp] theorem State.succeed_x (s : State) : (s.succeed).x = s.x := rfl
@[simp] theorem State.succeed_pt (s : State) : (s.succeed).pt = s.pt := rfl
@[simp] theorem State.succeed_iv (s : State) : (s.succeed).iv = s.iv := rfl
@[simp] theorem State.succeed_key (s : State) : (s.succeed).key = s.key := rfl
@[simp] theorem State.succeed_status (s : State) : (s.succeed).status = s.status.succeeded := rfl
@[simp] theorem State.succeed_cmd (s : State) : (s.succeed).cmd = s.cmd := rfl
@[simp] theorem State.succeed_errcmd (s : State) : (s.succeed).errcmd = s.errcmd := rfl
@[simp] theorem State.succeed_env (s : State) : (s.succeed).env = s.env := rfl

/-! `takeError` changes `status` and `errcmd` only (R124). -/

@[simp] theorem State.takeError_x (s : State) (e : ErrorKind) : (s.takeError e).x = s.x := rfl
@[simp] theorem State.takeError_pt (s : State) (e : ErrorKind) : (s.takeError e).pt = s.pt := rfl
@[simp] theorem State.takeError_iv (s : State) (e : ErrorKind) : (s.takeError e).iv = s.iv := rfl
@[simp] theorem State.takeError_key (s : State) (e : ErrorKind) : (s.takeError e).key = s.key := rfl
@[simp] theorem State.takeError_status (s : State) (e : ErrorKind) : (s.takeError e).status = s.status.failed e := rfl
@[simp] theorem State.takeError_cmd (s : State) (e : ErrorKind) : (s.takeError e).cmd = s.cmd := rfl
@[simp] theorem State.takeError_errcmd (s : State) (e : ErrorKind) : (s.takeError e).errcmd = s.cmd := rfl
@[simp] theorem State.takeError_env (s : State) (e : ErrorKind) : (s.takeError e).env = s.env := rfl

/-! `clearError` changes `status` only (R126). -/

@[simp] theorem State.clearError_x (s : State) : (s.clearError).x = s.x := rfl
@[simp] theorem State.clearError_pt (s : State) : (s.clearError).pt = s.pt := rfl
@[simp] theorem State.clearError_iv (s : State) : (s.clearError).iv = s.iv := rfl
@[simp] theorem State.clearError_key (s : State) : (s.clearError).key = s.key := rfl
@[simp] theorem State.clearError_status (s : State) : (s.clearError).status = s.status.errCleared := rfl
@[simp] theorem State.clearError_cmd (s : State) : (s.clearError).cmd = s.cmd := rfl
@[simp] theorem State.clearError_errcmd (s : State) : (s.clearError).errcmd = s.errcmd := rfl
@[simp] theorem State.clearError_env (s : State) : (s.clearError).env = s.env := rfl

/-! `accept` changes `cmd` and `status` only (R45). -/

@[simp] theorem State.accept_x (s : State) (w : Word) : (s.accept w).x = s.x := rfl
@[simp] theorem State.accept_pt (s : State) (w : Word) : (s.accept w).pt = s.pt := rfl
@[simp] theorem State.accept_iv (s : State) (w : Word) : (s.accept w).iv = s.iv := rfl
@[simp] theorem State.accept_key (s : State) (w : Word) : (s.accept w).key = s.key := rfl
@[simp] theorem State.accept_status (s : State) (w : Word) : (s.accept w).status = s.status.accepted := rfl
@[simp] theorem State.accept_cmd (s : State) (w : Word) : (s.accept w).cmd = w := rfl
@[simp] theorem State.accept_errcmd (s : State) (w : Word) : (s.accept w).errcmd = s.errcmd := rfl
@[simp] theorem State.accept_env (s : State) (w : Word) : (s.accept w).env = s.env := rfl

/-! `drop` changes `status` only (R46). -/

@[simp] theorem State.drop_x (s : State) : (s.drop).x = s.x := rfl
@[simp] theorem State.drop_pt (s : State) : (s.drop).pt = s.pt := rfl
@[simp] theorem State.drop_iv (s : State) : (s.drop).iv = s.iv := rfl
@[simp] theorem State.drop_key (s : State) : (s.drop).key = s.key := rfl
@[simp] theorem State.drop_status (s : State) : (s.drop).status = s.status.dropped := rfl
@[simp] theorem State.drop_cmd (s : State) : (s.drop).cmd = s.cmd := rfl
@[simp] theorem State.drop_errcmd (s : State) : (s.drop).errcmd = s.errcmd := rfl
@[simp] theorem State.drop_env (s : State) : (s.drop).env = s.env := rfl

/-! `resetHardware` keeps `env` only (R140). -/

@[simp] theorem State.resetHardware_x (s : State) : (s.resetHardware).x = State.reset.x := rfl
@[simp] theorem State.resetHardware_pt (s : State) : (s.resetHardware).pt = State.reset.pt := rfl
@[simp] theorem State.resetHardware_iv (s : State) : (s.resetHardware).iv = State.reset.iv := rfl
@[simp] theorem State.resetHardware_key (s : State) : (s.resetHardware).key = State.reset.key := rfl
@[simp] theorem State.resetHardware_status (s : State) : (s.resetHardware).status = State.reset.status := rfl
@[simp] theorem State.resetHardware_cmd (s : State) : (s.resetHardware).cmd = State.reset.cmd := rfl
@[simp] theorem State.resetHardware_errcmd (s : State) : (s.resetHardware).errcmd = State.reset.errcmd := rfl
@[simp] theorem State.resetHardware_env (s : State) : (s.resetHardware).env = s.env := rfl

/-! `popTurn` changes `env` only. -/

@[simp] theorem State.popTurn_x (s : State) : (s.popTurn).x = s.x := rfl
@[simp] theorem State.popTurn_pt (s : State) : (s.popTurn).pt = s.pt := rfl
@[simp] theorem State.popTurn_iv (s : State) : (s.popTurn).iv = s.iv := rfl
@[simp] theorem State.popTurn_key (s : State) : (s.popTurn).key = s.key := rfl
@[simp] theorem State.popTurn_status (s : State) : (s.popTurn).status = s.status := rfl
@[simp] theorem State.popTurn_cmd (s : State) : (s.popTurn).cmd = s.cmd := rfl
@[simp] theorem State.popTurn_errcmd (s : State) : (s.popTurn).errcmd = s.errcmd := rfl
@[simp] theorem State.popTurn_env (s : State) : (s.popTurn).env = { s.env with turns := s.env.turns.tail } := rfl

/-! `setProgram` changes `env` only. -/

@[simp] theorem State.setProgram_x (s : State) (p : List HostOp) : (s.setProgram p).x = s.x := rfl
@[simp] theorem State.setProgram_pt (s : State) (p : List HostOp) : (s.setProgram p).pt = s.pt := rfl
@[simp] theorem State.setProgram_iv (s : State) (p : List HostOp) : (s.setProgram p).iv = s.iv := rfl
@[simp] theorem State.setProgram_key (s : State) (p : List HostOp) : (s.setProgram p).key = s.key := rfl
@[simp] theorem State.setProgram_status (s : State) (p : List HostOp) : (s.setProgram p).status = s.status := rfl
@[simp] theorem State.setProgram_cmd (s : State) (p : List HostOp) : (s.setProgram p).cmd = s.cmd := rfl
@[simp] theorem State.setProgram_errcmd (s : State) (p : List HostOp) : (s.setProgram p).errcmd = s.errcmd := rfl
@[simp] theorem State.setProgram_env (s : State) (p : List HostOp) : (s.setProgram p).env = { s.env with program := p } := rfl

/-! `placeCommand` changes `cmd`, `status` and the turns. -/

@[simp] theorem State.placeCommand_x (s : State) (w : Word) : (s.placeCommand w).x = s.x := rfl
@[simp] theorem State.placeCommand_pt (s : State) (w : Word) : (s.placeCommand w).pt = s.pt := rfl
@[simp] theorem State.placeCommand_iv (s : State) (w : Word) : (s.placeCommand w).iv = s.iv := rfl
@[simp] theorem State.placeCommand_key (s : State) (w : Word) : (s.placeCommand w).key = s.key := rfl
@[simp] theorem State.placeCommand_status (s : State) (w : Word) : (s.placeCommand w).status = s.status.errCleared.accepted := rfl
@[simp] theorem State.placeCommand_cmd (s : State) (w : Word) : (s.placeCommand w).cmd = w := rfl
@[simp] theorem State.placeCommand_errcmd (s : State) (w : Word) : (s.placeCommand w).errcmd = s.errcmd := rfl
@[simp] theorem State.placeCommand_env (s : State) (w : Word) : (s.placeCommand w).env = { s.env with turns := .engine :: s.env.turns } := rfl

/-! STATUS, flag by flag. -/

@[simp] theorem Status.accepted_busy (st : Status) : (st.accepted).busy = true := rfl
@[simp] theorem Status.accepted_done (st : Status) : (st.accepted).done = false := rfl
@[simp] theorem Status.accepted_err (st : Status) : (st.accepted).err = st.err := rfl
@[simp] theorem Status.accepted_ovr (st : Status) : (st.accepted).ovr = st.ovr := rfl
@[simp] theorem Status.accepted_errCode (st : Status) : (st.accepted).errCode = st.errCode := rfl

@[simp] theorem Status.succeeded_busy (st : Status) : (st.succeeded).busy = false := rfl
@[simp] theorem Status.succeeded_done (st : Status) : (st.succeeded).done = true := rfl
@[simp] theorem Status.succeeded_err (st : Status) : (st.succeeded).err = st.err := rfl
@[simp] theorem Status.succeeded_ovr (st : Status) : (st.succeeded).ovr = st.ovr := rfl
@[simp] theorem Status.succeeded_errCode (st : Status) : (st.succeeded).errCode = st.errCode := rfl

@[simp] theorem Status.failed_busy (st : Status) (e : ErrorKind) : (st.failed e).busy = false := rfl
@[simp] theorem Status.failed_done (st : Status) (e : ErrorKind) : (st.failed e).done = st.done := rfl
@[simp] theorem Status.failed_err (st : Status) (e : ErrorKind) : (st.failed e).err = true := rfl
@[simp] theorem Status.failed_ovr (st : Status) (e : ErrorKind) : (st.failed e).ovr = st.ovr := rfl
@[simp] theorem Status.failed_errCode (st : Status) (e : ErrorKind) : (st.failed e).errCode = e.code := rfl

@[simp] theorem Status.dropped_busy (st : Status) : (st.dropped).busy = st.busy := rfl
@[simp] theorem Status.dropped_done (st : Status) : (st.dropped).done = st.done := rfl
@[simp] theorem Status.dropped_err (st : Status) : (st.dropped).err = st.err := rfl
@[simp] theorem Status.dropped_ovr (st : Status) : (st.dropped).ovr = true := rfl
@[simp] theorem Status.dropped_errCode (st : Status) : (st.dropped).errCode = st.errCode := rfl

@[simp] theorem Status.errCleared_busy (st : Status) : (st.errCleared).busy = st.busy := rfl
@[simp] theorem Status.errCleared_done (st : Status) : (st.errCleared).done = st.done := rfl
@[simp] theorem Status.errCleared_err (st : Status) : (st.errCleared).err = false := rfl
@[simp] theorem Status.errCleared_ovr (st : Status) : (st.errCleared).ovr = st.ovr := rfl
@[simp] theorem Status.errCleared_errCode (st : Status) : (st.errCleared).errCode = st.errCode := rfl


/-! A host write to STATUS, flag by flag (R45). -/

@[simp] theorem Status.hostWrite_busy (st : Status) (v : Word) : (st.hostWrite v).busy = st.busy := rfl
@[simp] theorem Status.hostWrite_done (st : Status) (v : Word) : (st.hostWrite v).done = st.done := rfl
@[simp] theorem Status.hostWrite_err (st : Status) (v : Word) : (st.hostWrite v).err = (st.err && !(v.getLsbD 2 && !st.busy)) := rfl
@[simp] theorem Status.hostWrite_ovr (st : Status) (v : Word) : (st.hostWrite v).ovr = (st.ovr && !v.getLsbD 3) := rfl
@[simp] theorem Status.hostWrite_errCode (st : Status) (v : Word) : (st.hostWrite v).errCode = st.errCode := rfl

/-! The reset state, field by field (R32). -/

@[simp] theorem State.reset_status : State.reset.status = Status.reset := rfl
@[simp] theorem State.reset_cmd : State.reset.cmd = 0#32 := rfl
@[simp] theorem State.reset_errcmd : State.reset.errcmd = 0#32 := rfl
@[simp] theorem State.reset_env : State.reset.env = Env.quiet := rfl

end Sys2Proof.Machine
end

