-- ==== Sys2Proof/Laws/Ops.lean ====
section
/-! SUPPORT. What the shared operations do: register reads after writes, fields and indexes, points in registers, and the two ends of a completion. -/

namespace Sys2Proof.Machine

/-- A read after a write of an integer register. -/
theorem State.readX_writeX (s : State) (i j : RegIndex) (v : Word) :
    (s.writeX i v).readX j = if i = j then v else s.readX j := by
  simp [State.readX, Vector.getElem_set, Fin.ext_iff]

/-- A read after a write of a point register, part by part. -/
theorem State.readPtReg_writePtReg (s : State) (i j : RegIndex) (r : PointReg) :
    (s.writePtReg i r).readPtReg j = if i = j then r else s.readPtReg j := by
  simp [State.readPtReg, Vector.getElem_set, Fin.ext_iff]

/-- A written point register holds the canonical parts of the point; the others are untouched. -/
theorem State.readPtReg_writePt (s : State) (i j : RegIndex) (Q : Point) :
    (s.writePt i Q).readPtReg j = if i = j then PointReg.ofPoint Q else s.readPtReg j :=
  s.readPtReg_writePtReg i j _

@[simp] theorem State.readX_writePt (s : State) (i j : RegIndex) (Q : Point) : (s.writePt i Q).readX j = s.readX j := rfl
@[simp] theorem State.readX_writeKeys (s : State) (a b : Vector Word 4) (j : RegIndex) : (s.writeKeys a b).readX j = s.readX j := rfl
@[simp] theorem State.readPtReg_writeX (s : State) (i j : RegIndex) (v : Word) : (s.writeX i v).readPtReg j = s.readPtReg j := rfl
@[simp] theorem State.readPtReg_writeKeys (s : State) (a b : Vector Word 4) (j : RegIndex) :
    (s.writeKeys a b).readPtReg j = s.readPtReg j := rfl
@[simp] theorem State.readX_succeed (s : State) (j : RegIndex) : s.succeed.readX j = s.readX j := rfl
@[simp] theorem State.readPtReg_succeed (s : State) (j : RegIndex) : s.succeed.readPtReg j = s.readPtReg j := rfl
@[simp] theorem State.readX_takeError (s : State) (e : ErrorKind) (j : RegIndex) : (s.takeError e).readX j = s.readX j := rfl
@[simp] theorem State.readPtReg_takeError (s : State) (e : ErrorKind) (j : RegIndex) :
    (s.takeError e).readPtReg j = s.readPtReg j := rfl

@[simp] theorem indexField_toNat (i : RegIndex) : (indexField i).toNat = i.val := by
  have h : i.val < 16 := lt_of_lt_of_le i.isLt (by decide)
  simpa [indexField] using h

/-- The field of a register names that register. -/
@[simp] theorem fieldIndex_indexField (i : RegIndex) : fieldIndex (indexField i) = .ok i := by
  simp [fieldIndex]

/-- A field holding 0 to 3 is the field of a register. -/
theorem exists_indexField {r : RegField} (h : RegField.legal r = true) : ∃ i : RegIndex, r = indexField i := by
  refine ⟨⟨r.toNat, by simpa [RegField.legal] using h⟩, ?_⟩
  apply BitVec.eq_of_toNat_eq
  simp

/-- A field holding 4 to 15 names no register (R64). -/
theorem fieldIndex_of_illegal {r : RegField} (h : RegField.legal r = false) : fieldIndex r = .error .illegalCommand := by
  have : ¬ r.toNat < 4 := by simpa [RegField.legal] using h
  simp [fieldIndex, this]

/-- The point a register holds after a command wrote `Q` with coordinates that fit a word (R23). -/
theorem PointReg.point_ofPoint_affine {x y : Int} (hx : 0 ≤ x ∧ x < 2 ^ 32) (hy : 0 ≤ y ∧ y < 2 ^ 32) :
    (PointReg.ofPoint (.affine x y)).point = .affine x y := by
  have key : ∀ z : Int, 0 ≤ z ∧ z < 2 ^ 32 → ((uint (zext32 z) : Nat) : Int) = z := by
    intro z hz
    simp only [uint, zext32, BitVec.toNat_ofInt]
    omega
  simp [PointReg.ofPoint, PointReg.point, key x hx, key y hy]

@[simp] theorem PointReg.point_ofPoint_identity : (PointReg.ofPoint .identity).point = .identity := rfl

/-- The two ends of a completion (R50). -/
theorem State.complete_ok (s : State) (r : Result) : s.complete (.ok r) = (s.writeResult r).succeed := rfl

/-- The two ends of a completion (R124). -/
theorem State.complete_error (s : State) (e : ErrorKind) : s.complete (.error e) = s.takeError e := rfl

/-- No command writes CMD or what stands outside the hardware. -/
@[simp] theorem State.writeResult_cmd (s : State) (r : Result) : (s.writeResult r).cmd = s.cmd := by cases r <;> rfl
@[simp] theorem State.writeResult_env (s : State) (r : Result) : (s.writeResult r).env = s.env := by cases r <;> rfl
@[simp] theorem State.writeResult_errcmd (s : State) (r : Result) : (s.writeResult r).errcmd = s.errcmd := by cases r <;> rfl
@[simp] theorem State.writeResult_status (s : State) (r : Result) : (s.writeResult r).status = s.status := by cases r <;> rfl
@[simp] theorem State.complete_cmd (s : State) (r : Except ErrorKind Result) : (s.complete r).cmd = s.cmd := by
  cases r <;> simp [State.complete]
@[simp] theorem State.complete_env (s : State) (r : Except ErrorKind Result) : (s.complete r).env = s.env := by
  cases r <;> simp [State.complete]
@[simp] theorem State.complete_busy (s : State) (r : Except ErrorKind Result) : (s.complete r).status.busy = false := by
  cases r <;> simp [State.complete]

/-- Every command completes: `exec` always answers the completion of some evaluation. -/
theorem exec_eq_complete (i : Instr) (s : State) : ∃ r, exec i s = .next (s.complete r) := by
  cases i <;> exact ⟨_, rfl⟩

/-- What the range check says (R91). -/
theorem checkRange_ok_of_inRange {c : CurveParams} {Q : Point} (h : Q.inRange c = true) : checkRange c Q = .ok () := by
  cases Q with
  | identity => rfl
  | affine x y =>
    simp only [Point.inRange, Bool.and_eq_true, decide_eq_true_eq] at h
    simp only [checkRange]
    rw [if_neg (by omega)]

/-- A point register out of range fails the check (R91). -/
theorem checkRange_of_outOfRange {q : PointReg} (h : q.outOfRange) :
    checkRange Config.curve q.point = .error .operandRange := by
  obtain ⟨hi, h⟩ := h
  simp [PointReg.point, hi, checkRange, uint]
  omega

/-- A point register that is not out of range passes the check: `Identity`, or both coordinates below `P` (R91). -/
theorem checkRange_of_not_outOfRange {q : PointReg} (h : ¬ q.outOfRange) : checkRange Config.curve q.point = .ok () := by
  cases hi : q.inf with
  | true => simp [PointReg.point, hi, checkRange]
  | false =>
    simp only [PointReg.outOfRange, hi, true_and] at h
    simp [PointReg.point, hi, checkRange, uint]
    omega

/-- Reading an Affine register and writing the point back gives the same three parts (R23). -/
theorem PointReg.ofPoint_point {q : PointReg} (h : q.inf = false) : PointReg.ofPoint q.point = q := by
  cases q with
  | mk inf x y =>
    subst h
    simp [PointReg.point, PointReg.ofPoint, zext32, uint]

/-- The three ends of a completion, in the terms of the statements (R50, R124). -/
theorem State.succeed_intReg (s : State) (d : RegIndex) (v : Word) :
    (s.writeResult (.intReg d v)).succeed = s.afterInt d v := rfl
theorem State.succeed_pointReg (s : State) (d : RegIndex) (Q : Point) :
    (s.writeResult (.pointReg d Q)).succeed = s.afterPoint d (PointReg.ofPoint Q) := rfl
theorem State.takeError_eq (s : State) (e : ErrorKind) : s.takeError e = s.afterError e.code := rfl

/-- The codes of R120: 1 to 5, never 0. -/
theorem ErrorKind.code_range (e : ErrorKind) : 1 ≤ e.code.toNat ∧ e.code.toNat ≤ 5 := by cases e <;> decide

end Sys2Proof.Machine
end

