-- ==== Sys2Proof/Laws/ModInv.lean ====
section
/-! SUPPORT. What one pass of the Euclidean loop does (40_modinv.md R82). -/

namespace Sys2Proof.Machine

/-- The new second remainder is the remainder of the division. -/
theorem euclidBody_r1 (e : EuclidState) : (euclidBody e).r1 = e.r0 % e.r1 := by
  have := Nat.div_add_mod' e.r0 e.r1
  simp only [euclidBody]
  omega

@[simp] theorem euclidBody_r0 (e : EuclidState) : (euclidBody e).r0 = e.r1 := rfl
@[simp] theorem euclidBody_t0 (e : EuclidState) : (euclidBody e).t0 = e.t1 := rfl

/-- The second remainder strictly decreases, which is what ends the loop. -/
theorem euclidBody_r1_lt {e : EuclidState} (h : e.r1 ≠ 0) : (euclidBody e).r1 < e.r1 := by
  rw [euclidBody_r1]
  exact Nat.mod_lt _ (Nat.pos_of_ne_zero h)

/-- A pass keeps the gcd of the two remainders. -/
theorem euclidBody_gcd (e : EuclidState) : Nat.gcd (euclidBody e).r0 (euclidBody e).r1 = Nat.gcd e.r0 e.r1 := by
  rw [euclidBody_r1, euclidBody_r0, Nat.gcd_comm e.r1, ← Nat.gcd_rec, Nat.gcd_comm]

/-- A pass keeps what ties each coefficient to its remainder: `t * a` and `r` agree modulo `p`. -/
theorem euclidBody_congr {a p : Int} {e : EuclidState} (h0 : p ∣ e.t0 * a - e.r0) (h1 : p ∣ e.t1 * a - e.r1) :
    p ∣ (euclidBody e).t0 * a - (euclidBody e).r0 ∧ p ∣ (euclidBody e).t1 * a - (euclidBody e).r1 := by
  refine ⟨h1, ?_⟩
  have hr : ((euclidBody e).r1 : Int) = e.r0 - (e.r0 / e.r1 : Nat) * e.r1 := by
    simp only [euclidBody]
    rw [Nat.cast_sub (Nat.div_mul_le_self _ _), Nat.cast_mul]
  have ht : (euclidBody e).t1 * a - (euclidBody e).r1 = e.t0 * a - e.r0 - (e.r0 / e.r1 : Nat) * (e.t1 * a - e.r1) := by
    rw [hr]
    simp only [euclidBody]
    ring
  rw [ht]
  exact dvd_sub h0 (h1.mul_left _)

/-- The loop does nothing once the second remainder is 0. -/
theorem euclidLoop_done (n : Nat) {e : EuclidState} (h : e.r1 = 0) : euclidLoop n e = e := by
  cases n <;> simp [euclidLoop, h]

/-- A pass that the loop takes. -/
theorem euclidLoop_pass (n : Nat) {e : EuclidState} (h : e.r1 ≠ 0) : euclidLoop (n + 1) e = euclidLoop n (euclidBody e) := by
  simp [euclidLoop, h]

/-- Where the loop starts: both coefficients are tied to their remainders. -/
theorem euclidStart_congr (a : Int) {p : Nat} (hp : 1 ≤ p) :
    (p : Int) ∣ (euclidStart a p).t0 * a - (euclidStart a p).r0 ∧ (p : Int) ∣ (euclidStart a p).t1 * a - (euclidStart a p).r1 := by
  have h : 0 ≤ a % (p : Int) := Int.emod_nonneg _ (by omega)
  simp [euclidStart, emod, Int.toNat_of_nonneg h, Int.dvd_self_sub_emod]

end Sys2Proof.Machine
end

