-- ==== Sys2Proof/Laws/Window.lean ====
section
/-! SUPPORT. The register window: the map and the offsets of R41 agree, and what a write can do. -/

namespace Sys2Proof.Machine

/-- The map finds every register at its offset (R41). -/
@[simp] theorem regAt_offset (r : WindowReg) : regAt r.offset = some r := by
  cases r with
  | x i | ptTag i | ptX i | ptY i | iv i | key i => fin_cases i <;> rfl
  | _ => rfl

/-- An offset is mapped to at most the register whose offset it is (R41). -/
theorem offset_of_regAt {a : Nat} {r : WindowReg} (h : regAt a = some r) : a = r.offset := by
  unfold regAt at h
  split at h <;> first | (cases h; rfl) | cases h

/-- No two registers share an offset (R41). -/
theorem WindowReg.offset_injective : Function.Injective WindowReg.offset := by
  intro r q h
  have := regAt_offset r
  rw [h, regAt_offset] at this
  exact (Option.some.inj this).symm

/-- A 4-byte access at a register's offset reaches the register. -/
@[simp] theorem decodeAccess_offset (r : WindowReg) : decodeAccess r.offset 4 = some r := by simp [decodeAccess]

@[simp] theorem State.memRead_offset (s : State) (r : WindowReg) : s.memRead r.offset 4 = .data (s.readReg r) := by
  simp [State.memRead]

@[simp] theorem State.memWrite_offset (s : State) (r : WindowReg) (v : Word) : s.memWrite r.offset 4 v = s.writeReg r v := by
  simp [State.memWrite]

@[simp] theorem State.ifIdle_of_idle {s : State} (s' : State) (h : s.status.busy = false) : s.ifIdle s' = s' := by
  simp [State.ifIdle, h]

@[simp] theorem State.ifIdle_of_busy {s : State} (s' : State) (h : s.status.busy = true) : s.ifIdle s' = s.drop := by
  simp [State.ifIdle, h]

/-- While `BUSY` = 1 a host write can only change STATUS, and of STATUS only `ERR` and `OVR` (R45, R46). -/
theorem State.writeReg_of_busy {s : State} (r : WindowReg) (v : Word) (h : s.status.busy = true) :
    s.writeReg r v = s ∨ s.writeReg r v = s.drop ∨ s.writeReg r v = { s with status := s.status.hostWrite v } := by
  cases r <;> simp [State.writeReg, Status.accepts, h]

/-- No host write touches ERRCMD or what stands outside the hardware (R27, R45). -/
theorem State.writeReg_errcmd_env (s : State) (r : WindowReg) (v : Word) :
    (s.writeReg r v).errcmd = s.errcmd ∧ (s.writeReg r v).env = s.env := by
  cases r <;> first
    | exact ⟨rfl, rfl⟩
    | (simp only [State.writeReg, State.ifIdle]; split <;> exact ⟨rfl, rfl⟩)

end Sys2Proof.Machine
end

