-- ==== Sys2Proof/Laws/Step.lean ====
section
/-! SUPPORT. What a host write, a host turn, a completion and a step can do, said once (20_memory.md R45, R46, R48, R50). -/

namespace Sys2Proof.Machine

/-- Everything a host write can do (R45, R46): nothing; a change of one data register while `BUSY` = 0; the clearing of `ERR`
and `OVR`; the acceptance of a command word by a ready hardware; a drop. -/
theorem State.writeReg_cases (s : State) (r : WindowReg) (v : Word) :
    s.writeReg r v = s ∨
    (s.status.busy = false ∧ ∃ x pt iv key, s.writeReg r v = { s with x := x, pt := pt, iv := iv, key := key }) ∨
    s.writeReg r v = { s with status := s.status.hostWrite v } ∨
    (r = .cmd ∧ s.ready ∧ s.writeReg r v = s.accept v) ∨
    (¬ s.ready ∧ s.writeReg r v = s.drop) := by
  have data : ∀ s' x pt iv key, s' = { s with x := x, pt := pt, iv := iv, key := key } →
      (s.status.busy = false ∧ s.ifIdle s' = { s with x := x, pt := pt, iv := iv, key := key }) ∨
        (¬ s.ready ∧ s.ifIdle s' = s.drop) := by
    rintro s' x pt iv key rfl
    cases h : s.status.busy with
    | false => exact .inl ⟨rfl, by simp [h]⟩
    | true => exact .inr ⟨by simp [h], by simp [h]⟩
  cases r with
  | errcmd | paramP | paramA | paramB | paramGx | paramGy => exact .inl rfl
  | status => exact .inr (.inr (.inl rfl))
  | cmd =>
    by_cases h : s.status.accepts = true
    · refine .inr (.inr (.inr (.inl ⟨rfl, by simpa [Status.accepts] using h, by simp [State.writeReg, h]⟩)))
    · refine .inr (.inr (.inr (.inr ⟨fun hr => h ?_, by simp [State.writeReg, h]⟩)))
      simp [Status.accepts, hr.1, hr.2]
  | x i | ptTag i | ptX i | ptY i | iv i | key i =>
    rcases data _ _ _ _ _ rfl with ⟨hb, h⟩ | ⟨hb, h⟩
    · exact .inr (.inl ⟨hb, _, _, _, _, h⟩)
    · exact .inr (.inr (.inr (.inr ⟨hb, h⟩)))

/-- Only a 4-byte access at a register's offset reaches the register (R41, R42). -/
theorem decodeAccess_eq_some {addr size : Nat} {r : WindowReg} (h : decodeAccess addr size = some r) :
    addr = r.offset ∧ size = 4 := by
  unfold decodeAccess at h
  split at h
  · exact ⟨offset_of_regAt h, ‹_›⟩
  · cases h

/-- Everything a host turn can do to the hardware (R48): nothing, or the one register write the host's program asks for. The
listed turns stay as they are. -/
theorem State.hostTurn_cases (s : State) :
    ∃ e : Env, e.turns = s.env.turns ∧
      (s.hostTurn = { s with env := e } ∨
        ∃ r v rest, s.env.program = .access (.write (WindowReg.offset r) 4 v) :: rest ∧
          s.hostTurn = { s.writeReg r v with env := e }) := by
  unfold State.hostTurn
  split
  · exact ⟨s.env, rfl, .inl rfl⟩
  · rename_i a rest hp
    cases a with
    | read addr size => exact ⟨{ s.env with program := rest, response := some (s.memRead addr size) }, rfl, .inl rfl⟩
    | write addr size v =>
      refine ⟨{ s.env with program := rest, response := some (memWriteResponse addr size) }, rfl, ?_⟩
      cases hd : decodeAccess addr size with
      | none => exact .inl (by simp [State.access, State.effect, State.memWrite, hd, State.setProgram, State.answer])
      | some r =>
        obtain ⟨rfl, rfl⟩ := decodeAccess_eq_some hd
        refine .inr ⟨r, v, rest, hp, ?_⟩
        simp [State.access, State.effect, State.setProgram, State.answer, (s.writeReg_errcmd_env r v).2]
  · rename_i b rest hp
    exact ⟨{ s.env with program := afterPoll (s.readReg .status) b rest, response := some (s.memRead 0x00 4) }, rfl, .inl rfl⟩

/-- Everything a completion can do (R50, R66): the end of the decoded command's evaluation, or IllegalCommand. -/
theorem State.completion_cases (s : State) :
    (∃ i r, decode s.cmd = .ok i ∧ exec i s = .next (s.complete r) ∧ s.completion = .next (s.complete r)) ∨
    ((∃ e, decode s.cmd = .error e) ∧ s.completion = .next (s.takeError .illegalCommand)) := by
  unfold State.completion
  cases hd : decode s.cmd with
  | ok i =>
    obtain ⟨r, hr⟩ := exec_eq_complete i s
    exact .inl ⟨i, r, rfl, hr, hr⟩
  | error e => exact .inr ⟨⟨e, rfl⟩, rfl⟩

/-- Everything a step can do: a host turn, an idle turn of the engine, a completion, or reset. A step always answers next. -/
theorem step_cases (s : State) :
    (s.nextAgent = .host ∧ step s = .next s.popTurn.hostTurn) ∨
    (s.nextAgent = .engine ∧ s.status.busy = false ∧ step s = .next s.popTurn) ∨
    (s.completing ∧ ∃ r, step s = .next (s.popTurn.complete r)) ∨
    (s.nextAgent = .reset ∧ step s = .next s.popTurn.resetHardware) := by
  unfold step
  cases ha : s.nextAgent with
  | host => exact .inl ⟨rfl, rfl⟩
  | reset => exact .inr (.inr (.inr ⟨rfl, rfl⟩))
  | engine =>
    cases hb : s.status.busy with
    | false => exact .inr (.inl ⟨rfl, rfl, by simp [State.turn, State.engineTurn, State.popTurn, hb]⟩)
    | true =>
      refine .inr (.inr (.inl ⟨⟨ha, hb⟩, ?_⟩))
      have he : s.popTurn.turn .engine = s.popTurn.completion := by simp [State.turn, State.engineTurn, State.popTurn, hb]
      rw [he]
      rcases s.popTurn.completion_cases with ⟨_, r, _, _, h⟩ | ⟨_, h⟩
      · exact ⟨r, h⟩
      · exact ⟨.error .illegalCommand, h⟩

/-! One step of the schedule in which no turn is listed: the host moves while the hardware is idle, the engine while it is busy. -/

/-- Where no turn is listed, none is taken from the list. -/
theorem State.popTurn_of_noTurns {s : State} (h : s.env.turns = []) : s.popTurn = s := by
  simp only [State.popTurn, h, List.tail_nil]
  rw [← h]

theorem step_of_idle {s : State} (ht : s.env.turns = []) (hb : s.status.busy = false) : step s = .next s.hostTurn := by
  simp [step, State.nextAgent, ht, hb, State.turn, State.popTurn_of_noTurns ht]

/-- The host's write of a word to a register. -/
theorem step_hostWrite {s : State} {r : WindowReg} {v : Word} {rest : List HostOp} (ht : s.env.turns = [])
    (hb : s.status.busy = false) (hp : s.env.program = hostWrite r v :: rest) :
    step s = .next { s.writeReg r v with env := { program := rest, turns := [], response := some .ok } } := by
  simp [step_of_idle ht hb, State.hostTurn, hp, hostWrite, State.access, State.effect, State.answer, memWriteResponse,
    State.setProgram, (s.writeReg_errcmd_env r v).2, ht]

/-- The host's read of a register. -/
theorem step_hostRead {s : State} {r : WindowReg} {rest : List HostOp} (ht : s.env.turns = [])
    (hb : s.status.busy = false) (hp : s.env.program = hostRead r :: rest) :
    step s = .next { s with env := { program := rest, turns := [], response := some (.data (s.readReg r)) } } := by
  simp [step_of_idle ht hb, State.hostTurn, hp, hostRead, State.access, State.effect, State.answer, State.setProgram, ht]

/-- The last poll of WAIT. -/
theorem step_wait {s : State} {b : Bool} {rest : List HostOp} (ht : s.env.turns = []) (hb : s.status.busy = false)
    (hp : s.env.program = .wait b :: rest) :
    step s = .next { s with env := { program := if b && s.status.err then [] else rest, turns := [],
                                     response := some (.data s.status.word) } } := by
  have hw : busyBit s.status.word = false ∧ errBit s.status.word = s.status.err := by
    revert hb
    rcases s.status with ⟨b, d, e, o, c⟩
    rintro rfl
    cases d <;> cases e <;> cases o <;> revert c <;> decide
  have hr : s.memRead 0x00 4 = .data s.status.word := rfl
  simp [step_of_idle ht hb, State.hostTurn, hp, State.access, State.effect, State.answer, State.setProgram, afterPoll,
    State.readReg, hw, hr, ht]

/-- The completion of a legal word. -/
theorem step_completion {s : State} {i : Instr} (ht : s.env.turns = []) (hb : s.status.busy = true)
    (hd : decode s.cmd = .ok i) : step s = exec i s := by
  simp [step, State.nextAgent, ht, hb, State.turn, State.popTurn_of_noTurns ht, State.engineTurn, State.completion, hd]

/-- A run of one step and more. -/
theorem run_succ {s t : State} (k : Nat) (h : step s = .next t) :
    Host.Core.run Sys2Proof.core (k + 1) s = Host.Core.run Sys2Proof.core k t := by
  have h' : Sys2Proof.core.step s = .next t := h
  simp only [Host.Core.run, h']

/-! What each command writes when its evaluation succeeds. -/

theorem modinvResult_ok {rd ra rm : RegField} {s : State} {r : Result} (h : modinvResult rd ra rm s = .ok r) :
    ∃ d v, fieldIndex rd = .ok d ∧ r = .intReg d v := by
  simp only [modinvResult, bind, Except.bind, pure, Except.pure] at h
  repeat' split at h
  all_goals first | cases h; done | (cases h; exact ⟨_, _, ‹_›, rfl⟩)

theorem paddResult_ok {c : CurveParams} {pd ps1 ps2 : RegField} {s : State} {r : Result}
    (h : paddResult c pd ps1 ps2 s = .ok r) : ∃ d Q, fieldIndex pd = .ok d ∧ r = .pointReg d Q := by
  simp only [paddResult, bind, Except.bind, pure, Except.pure] at h
  repeat' split at h
  all_goals first | cases h; done | (cases h; exact ⟨_, _, ‹_›, rfl⟩)

theorem pdblResult_ok {c : CurveParams} {pd ps1 : RegField} {s : State} {r : Result}
    (h : pdblResult c pd ps1 s = .ok r) : ∃ d Q, fieldIndex pd = .ok d ∧ r = .pointReg d Q := by
  simp only [pdblResult, bind, Except.bind, pure, Except.pure] at h
  repeat' split at h
  all_goals first | cases h; done | (cases h; exact ⟨_, _, ‹_›, rfl⟩)

theorem smulResult_ok {c : CurveParams} {pd ps1 rk : RegField} {s : State} {r : Result}
    (h : smulResult c pd ps1 rk s = .ok r) : ∃ d Q, fieldIndex pd = .ok d ∧ r = .pointReg d Q := by
  simp only [smulResult, bind, Except.bind, pure, Except.pure] at h
  repeat' split at h
  all_goals first | cases h; done | (cases h; exact ⟨_, _, ‹_›, rfl⟩)

theorem ldgResult_ok {c : CurveParams} {pd : RegField} {r : Result} (h : ldgResult c pd = .ok r) :
    ∃ d Q, fieldIndex pd = .ok d ∧ r = .pointReg d Q := by
  simp only [ldgResult, bind, Except.bind, pure, Except.pure] at h
  repeat' split at h
  all_goals first | cases h; done | (cases h; exact ⟨_, _, ‹_›, rfl⟩)

theorem kdfResult_ok {c : CurveParams} {H : HashFn} {ps1 : RegField} {s : State} {r : Result}
    (h : kdfResult c H ps1 s = .ok r) : ∃ iv key, r = .keyMaterial iv key := by
  simp only [kdfResult, bind, Except.bind, pure, Except.pure] at h
  repeat' split at h
  all_goals first | cases h; done | (cases h; exact ⟨_, _, rfl⟩)

end Sys2Proof.Machine
end

