-- ==== Sys2Proof/Tests/Slice0.lean ====
section
/-! SUPPORT. The model's own tests: the smoke of WellFormed, decoding of words written out from the spec's encoding, one-step tests whose expected values are the spec's (95_test_vectors.md and the examples of the rules), and a witness for the hypotheses of each statement. -/

namespace Sys2Proof.Tests

open Sys2Proof Sys2Proof.Machine

/-! ## Helpers -/

/-- The state an outcome carries; the machine has no other outcome. -/
def after : Host.Outcome State Fault Refusal → State
  | .next s => s
  | .fault r => nomatch r
  | .refused _ => State.reset

/-- A point register from its parts. -/
def reg (inf : Bool) (x y : Nat) : PointReg := { inf := inf, x := BitVec.ofNat 32 x, y := BitVec.ofNat 32 y }

/-- An idle state: x = 18, 101, -18, 9; pt = (2, 9), (5, 0), Identity with stale coordinates, (101, 5). -/
def small : State :=
  { State.reset with
    x := #v[18#32, 101#32, 0xFFFFFFEE#32, 9#32]
    pt := #v[reg false 2 9, reg false 5 0, reg true 200 300, reg false 101 5] }

/-- The command `w` has been accepted on `small`, and the engine's completion is next. -/
def issued (w : Word) : State := small.placeCommand w

/-- A host program and the turns to come. -/
def State.withHost (s : State) (p : List HostOp) (ts : List Agent) : State :=
  { s with env := { program := p, turns := ts, response := none } }

/-- ASCII bytes of a string. -/
def ascii (t : String) : List Byte := t.toList.map fun ch => BitVec.ofNat 8 ch.toNat

/-- A stand-in for HASH that returns the digest R116 gives for the byte string of `9`, whatever it is asked. -/
def digestOfNine : HashFn :=
  { extra := 24
    digest := fun _ => #v[0x19, 0x58, 0x1e, 0x27, 0xde, 0x7c, 0xed, 0x00, 0xff, 0x1c, 0xe5, 0x0b, 0x20, 0x47, 0xe7, 0xa5, 0x67, 0xc7,
      0x6b, 0x1c, 0xba, 0xeb, 0xab, 0xe5, 0xef, 0x03, 0xf7, 0xc3, 0x01, 0x7b, 0xb5, 0xb7] }

/-! ## WellFormed refuses each ill-formed field (R64) -/

theorem test_wellFormed_modinv : (Instr.modinv 4#4 0#4 0#4).wellFormed = false ∧ (Instr.modinv 0#4 4#4 0#4).wellFormed = false ∧
    (Instr.modinv 0#4 0#4 15#4).wellFormed = false ∧ (Instr.modinv 3#4 3#4 3#4).wellFormed = true := by decide
theorem test_wellFormed_padd : (Instr.padd 4#4 0#4 0#4).wellFormed = false ∧ (Instr.padd 0#4 8#4 0#4).wellFormed = false ∧
    (Instr.padd 0#4 0#4 4#4).wellFormed = false ∧ (Instr.padd 3#4 3#4 3#4).wellFormed = true := by decide
theorem test_wellFormed_pdbl : (Instr.pdbl 4#4 0#4).wellFormed = false ∧ (Instr.pdbl 0#4 4#4).wellFormed = false ∧
    (Instr.pdbl 3#4 3#4).wellFormed = true := by decide
theorem test_wellFormed_smul : (Instr.smul 4#4 0#4 0#4).wellFormed = false ∧ (Instr.smul 0#4 4#4 0#4).wellFormed = false ∧
    (Instr.smul 0#4 0#4 4#4).wellFormed = false ∧ (Instr.smul 3#4 3#4 3#4).wellFormed = true := by decide
theorem test_wellFormed_kdf : (Instr.kdf 4#4).wellFormed = false ∧ (Instr.kdf 3#4).wellFormed = true := by decide
theorem test_wellFormed_ldg : (Instr.ldg 4#4).wellFormed = false ∧ (Instr.ldg 3#4).wellFormed = true := by decide

/-! ## Decoding: words written out field by field from the picture of R61 and the patterns of R63 (95_test_vectors.md 2.7) -/

theorem test_decode_modinv : decode 0b000000000000_0001_0000_0010_00000001#32 = .ok (.modinv 2#4 0#4 1#4) := by decide
theorem test_decode_padd : decode 0b000000000000_0001_0000_0010_00000010#32 = .ok (.padd 2#4 0#4 1#4) := by decide
theorem test_decode_pdbl : decode 0b000000000000_0000_0011_0001_00000011#32 = .ok (.pdbl 1#4 3#4) := by decide
theorem test_decode_smul : decode 0b000000000000_0001_0010_0011_00000100#32 = .ok (.smul 3#4 2#4 1#4) := by decide
theorem test_decode_kdf : decode 0b000000000000_0000_0001_0000_00000101#32 = .ok (.kdf 1#4) := by decide
theorem test_decode_ldg : decode 0b000000000000_0000_0000_0011_00000110#32 = .ok (.ldg 3#4) := by decide

/-- The four grounds of R64, each by its name. -/
theorem test_decode_illegal : decode 0x00100201#32 = .error .zeroField ∧ decode 0x00000007#32 = .error .opcode ∧
    decode 0x00000000#32 = .error .opcode ∧ decode 0x00040201#32 = .error .registerIndex ∧
    decode 0x00010103#32 = .error .unusedField ∧ decode 0x00000105#32 = .error .unusedField ∧
    decode 0x00001006#32 = .error .unusedField := by decide

theorem test_encode : encode (.modinv 2#4 0#4 1#4) = 0x00010201#32 ∧ encode (.padd 2#4 0#4 1#4) = 0x00010202#32 ∧
    encode (.pdbl 1#4 0#4) = 0x00000103#32 ∧ encode (.smul 3#4 2#4 1#4) = 0x00012304#32 ∧ encode (.kdf 1#4) = 0x00001005#32 ∧
    encode (.ldg 3#4) = 0x00000306#32 := by decide

theorem test_decodeTableWord : decodeTableWord 32 0x00012304 = some (.smul 3#4 2#4 1#4) ∧ decodeTableWord 32 0x00040201 = none := by decide

/-- No two rows of the opcode map overlap (R63): a word matches at most one pattern, since the masks share the opcode byte. -/
theorem test_opcode_rows_disjoint : opcodeMap.Pairwise (fun a b => a.pattern &&& 0xFF#32 ≠ b.pattern &&& 0xFF#32) ∧
    ∀ r ∈ opcodeMap, r.mask &&& 0xFF#32 = 0xFF#32 ∧ r.pattern &&& r.mask = r.pattern := by decide

theorem test_asm : Instr.asm (.modinv 2#4 0#4 1#4) = "MODINV x2, x0, x1" ∧ Instr.asm (.smul 3#4 2#4 1#4) = "SMUL pt3, pt2, x1" := by decide

/-! ## One step of each command; expected values from 95_test_vectors.md -/

/-- Vector I1: 18 modulo 101 gives 73. -/
theorem test_modinv_18 : (after (step (issued 0x00010001#32))).x = #v[73#32, 101#32, 0xFFFFFFEE#32, 9#32] := by decide
/-- Vector I8: -18 is read signed and reduced; 28. -/
theorem test_modinv_negative : (after (step (issued 0x00012301#32))).readX 3 = 28#32 := by decide
/-- Vector A1: (2, 9) + (5, 0) = (2, 92). -/
theorem test_padd_general : (after (step (issued 0x00010202#32))).readPtReg 2 = reg false 2 92 := by decide
/-- 95 section 2.3: a register with tag 1 is Identity whatever its coordinates hold. -/
theorem test_padd_stale_identity : (after (step (issued 0x00002302#32))).readPtReg 3 = reg false 2 9 := by decide
/-- Vector B1: double(G) = (5, 0). -/
theorem test_pdbl_generator : (after (step (issued 0x00000103#32))).readPtReg 1 = reg false 5 0 := by decide
/-- Program P4 step 38: a coordinate equal to P raises OperandRange and leaves the register. -/
theorem test_pdbl_out_of_range : (after (step (issued 0x00003303#32))).status.word = 0x00000404#32 ∧
    (after (step (issued 0x00003303#32))).readPtReg 3 = reg false 101 5 := by decide
/-- 42_scalar_mult.md R103: 9 * G = G, since 9 mod 4 = 1. -/
theorem test_smul_nine : (after (step (issued 0x00030104#32))).readPtReg 1 = reg false 2 9 := by decide
/-- Vector M31: a negative scalar is reported before the range of the point. -/
theorem test_smul_negative_first : (after (step (issued 0x00023104#32))).status.word = 0x00000204#32 := by decide
/-- KDF of an Affine point succeeds whatever HASH is. -/
theorem test_kdf_succeeds : (after (step (issued 0x00000005#32))).status.word = 0x00000002#32 := by decide
/-- 95 section 2.5: tag 1 with stale coordinates is KdfIdentity. -/
theorem test_kdf_identity : (after (step (issued 0x00002005#32))).status.word = 0x00000504#32 ∧
    (after (step (issued 0x00002005#32))).errcmd = 0x00002005#32 := by decide
/-- 95 section 2.6. -/
theorem test_ldg : (after (step (issued 0x00000306#32))).readPtReg 3 = reg false 2 9 := by decide
/-- Program P4 step 22. -/
theorem test_illegal_word : (after (step (issued 0x00000000#32))).status.word = 0x00000304#32 := by decide

/-! ## The pure functions on the spec's traces -/

/-- The trace of R85 after iterations 3 and 6. -/
theorem test_euclid_trace : euclidLoop 3 (euclidStart 18 101) = { r0 := 7, r1 := 4, t0 := 6, t1 := -11 } ∧
    euclidLoop 6 (euclidStart 18 101) = { r0 := 1, r1 := 0, t0 := -28, t1 := 101 } := by decide
/-- Vectors I14, I17 and I30: modulus 1, modulus 0, and the largest modulus. -/
theorem test_modInverse_corners : modInverse 7 1 = .ok 0 ∧ modInverse 1 0 = .error .noInverseExists ∧
    modInverse (-1) 4294967295 = .ok 4294967294 := by decide
/-- The trace of M17 (R = Q in the last step) and of M11 after step 2. -/
theorem test_smul_trace : scalarMultiply Config.curve 9 (.affine 4 45) = .ok (.affine 89 73) ∧
    smulLoop Config.curve 3 { R := .identity, Q := .affine 6 5, n := 13 } =
      .ok { R := .affine 82 85, Q := .affine 4 56, n := 1 } := by decide
/-- R110. -/
theorem test_decimal : decimal 100 = [0x31#8, 0x30#8, 0x30#8] ∧ decimal 92 = [0x39#8, 0x32#8] ∧ decimal 0 = [0x30#8] := by decide
/-- R116's example, with the digest it gives. -/
theorem test_kdf_words : (deriveSymmetricKey digestOfNine (.affine 2 9)).map (fun k => (packWords k.iv, packWords k.key)) =
    .ok (#v[0x38353931#32, 0x37326531#32, 0x63376564#32, 0x30306465#32],
      #v[0x33306665#32, 0x33633766#32, 0x62373130#32, 0x37623562#32]) := by decide
/-- Vector A18: a result at (0, 0) is Affine, not Identity. -/
theorem test_add_zero_point : add Config.curve (.affine 0 0) (.affine 1 1) = .ok (.affine 0 0) := by decide

/-! ## The host (95_test_vectors.md 2.8) -/

/-- Vector H6: only bit 0 of a tag is stored. -/
theorem test_tag_write : (State.reset.memWrite 0x60 4 0xFFFFFFFE#32).memRead 0x60 4 = .data 0#32 := by decide
/-- Vector H9: a misaligned write and a read of the wrong size. -/
theorem test_bus_errors : State.reset.memWrite 0x42 4 1#32 = State.reset ∧ State.reset.memRead 0x40 2 = .buserror ∧
    State.reset.memRead 0x0C 4 = .buserror := by decide
/-- Vector H12: a second CMD write before completion is dropped. -/
theorem test_dropped_cmd : ((State.reset.memWrite 0x04 4 6#32).memWrite 0x04 4 0x106#32).status.word = 9#32 ∧
    ((State.reset.memWrite 0x04 4 6#32).memWrite 0x04 4 0x106#32).cmd = 6#32 := by decide
/-- Vector H14: CLRERR keeps ERRCODE. -/
theorem test_clear_error : ((small.takeError .noInverseExists).memWrite 0x00 4 4#32).status.word = 0x100#32 := by decide

/-- R69's sequence of modInverse on the operands of R84's example: 73. -/
theorem test_sequenceModInverse :
    sequenceModInverse 18 101 2 0 1 = [.access (.write 0x40 4 18#32), .access (.write 0x44 4 101#32),
      .access (.write 0x04 4 0x00010201#32), .wait false] := by decide
/-- R69's sequence of add, with an Affine and an Identity operand, access by access from the table of R68. -/
theorem test_sequenceAdd :
    sequenceAdd (.affine 2 9) .identity 2 0 1 = [.access (.write 0x64 4 2#32), .access (.write 0x68 4 9#32),
      .access (.write 0x60 4 0#32), .access (.write 0x70 4 1#32), .access (.write 0x74 4 0#32), .access (.write 0x78 4 0#32),
      .access (.write 0x04 4 0x00010202#32), .wait false] := by decide

/-! ## Witnesses: the hypotheses of the statements can be met -/

theorem witness_DecodeOfEncode : (Instr.smul 3#4 0#4 3#4).wellFormed = true := by decide
theorem witness_LegalWord : decode 0x00033304#32 = .ok (.smul 3#4 3#4 3#4) := by decide
theorem witness_ready : small.ready := by decide
/-- StepRunsDecodedCommand, CompletionEndsInDoneOrError, EachRegisterFileHasItsCommands (a word of each file's commands). -/
theorem witness_completing : (issued 0x00010202#32).completing ∧ decode (issued 0x00010202#32).cmd = .ok (.padd 2#4 0#4 1#4) :=
  ⟨by decide, by decide⟩
/-- IllegalWordsRaiseIllegalCommand. -/
theorem witness_completing_illegal : (issued 0x00000007#32).completing ∧ ∃ e, decode (issued 0x00000007#32).cmd = .error e :=
  ⟨by decide, .opcode, by decide⟩
/-- StepOfTheOtherAgents, clause by clause. -/
theorem witness_other_agents : (State.withHost small [] [.engine]).nextAgent = .engine ∧
    (State.withHost small [] [.engine]).status.busy = false ∧ (State.withHost small [] []).nextAgent = .host ∧
    (State.withHost small [] [.reset]).nextAgent = .reset ∧ small.env.turns = [] := by decide
/-- ResetAbandonsRunningCommand, HostReads, BusyProtectsTheRegisters: a busy state whose host has the turn. -/
theorem witness_busy_host : (State.withHost (issued 6#32) [hostWrite (.x 0) 7#32] [.host]).status.busy = true ∧
    (State.withHost (issued 6#32) [hostWrite (.x 0) 7#32] [.host]).nextAgent = .host ∧
    ∃ t, step (State.withHost (issued 6#32) [hostWrite (.x 0) 7#32] [.host]) = .next t := ⟨by decide, by decide, _, rfl⟩
/-- BusErrorsChangeNothing at the edges of its ranges, on both sides. -/
theorem witness_badAccess : badAccess 0x0C 4 ∧ badAccess 0x3C 4 ∧ badAccess 0xFC 4 ∧ badAccess 0x100 4 ∧ badAccess 0x41 4 ∧
    badAccess 0x40 8 := ⟨by decide, by decide, by decide, by decide, by decide, by decide⟩
theorem witness_goodAccess : ¬ badAccess 0x00 4 ∧ ¬ badAccess 0x20 4 ∧ ¬ badAccess 0x98 4 ∧ ¬ badAccess 0xBC 4 :=
  ⟨by decide, by decide, by decide, by decide⟩
/-- HostWritesByRegister, ErrorReturn: an idle state with an error, and a busy one. -/
theorem witness_error_state : (small.takeError .operandRange).status.err = true ∧
    (small.takeError .operandRange).status.busy = false ∧ (issued 6#32).status.busy = true := by decide
/-- CmdHoldsTheAcceptedWord: a step in which CMD changes. -/
theorem witness_cmd_changes : (State.withHost small [hostWrite .cmd 6#32] []).ready ∧
    (after (step (State.withHost small [hostWrite .cmd 6#32] []))).cmd ≠ (State.withHost small [hostWrite .cmd 6#32] []).cmd := by decide
/-- ErrcmdHoldsTheFailedWord: a step in which ERRCMD changes, from a state that meets the invariant. -/
theorem witness_errcmd_changes : (issued 0x00003303#32).Inv ∧ (issued 0x00003303#32).completing ∧
    (after (step (issued 0x00003303#32))).errcmd ≠ (issued 0x00003303#32).errcmd ∧
    (after (step (issued 0x00003303#32))).status.err = true := by decide
/-- CommandsReadDataRegistersOnly: two states that share the data registers and differ in the rest. -/
theorem witness_sameData : small.sameData (issued 6#32) ∧ small ≠ issued 6#32 := by decide
/-- ModInverseIsTheUniqueInverse, EuclidLoopInvariantAndEnd: coprime and not, at the smallest moduli too. -/
theorem witness_modInverse : Int.gcd 18 (101 : Nat) = 1 ∧ Int.gcd 6 (9 : Nat) ≠ 1 ∧ (202 : Int) % (101 : Nat) = 0 ∧
    Int.gcd 0 (1 : Nat) = 1 := by decide
/-- ModinvCommand, its two clauses. -/
theorem witness_ModinvCommand : small.x[1].toNat ≠ 0 ∧ Int.gcd small.x[0].toInt small.x[1].toNat = 1 ∧
    Int.gcd small.x[1].toInt small.x[1].toNat ≠ 1 ∧ State.reset.x[0].toNat = 0 := by decide
/-- PaddCommand, PdblCommand, SmulCommand, KdfCommand: registers for each clause, at the boundary P = 101. -/
theorem witness_pointRegs : (reg false 101 5).outOfRange ∧ (reg false 0 101).outOfRange ∧ ¬ (reg false 100 100).outOfRange ∧
    ¬ (reg true 200 300).outOfRange ∧ (reg true 200 300).inf = true ∧ small.pt[0] = reg false 2 9 ∧ small.pt[1] = reg false 5 0 ∧
    small.pt[2] = reg true 200 300 ∧ small.pt[3] = reg false 101 5 := by decide
/-- SmulCommand: scalars of each sign, at the boundaries. -/
theorem witness_scalars : (0x80000000#32).toInt < 0 ∧ (0xFFFFFFFF#32).toInt < 0 ∧ 0 ≤ (0x7FFFFFFF#32).toInt ∧
    0 ≤ small.x[3].toInt := by decide
/-- AddIsSymmetric, AddAndDoubleFailOnlyWithoutInverse, AddNeutralAndOpposite, SumOfCurvePointsIsOnTheCurve and the statements
about points on the curve. -/
theorem witness_curve : Config.curve.wellFormed = true ∧ Config.curve.P ≠ 2 ∧ Config.curve.P % 2 = 1 ∧
    onCurve Config.curve (.affine 2 9) = true ∧ onCurve Config.curve (.affine 5 0) = true ∧
    (Point.affine 100 100).inRange Config.curve = true ∧ onCurve Config.curve .identity = true ∧
    add Config.curve (.affine 2 9) (.affine 5 0) = .ok (.affine 2 92) := by decide
theorem witness_prime : Nat.Prime Config.curve.P := by
  have h : Config.curve.P = 101 := rfl
  rw [h]; norm_num
/-- AddAndDoubleFailOnlyWithoutInverse, second clause: a record whose P is composite. -/
theorem witness_composite : add { P := 9, A := 1, B := 0, Gx := 0, Gy := 0 } (.affine 0 0) (.affine 3 0) = .error .noInverseExists ∧
    double { P := 4, A := 1, B := 0, Gx := 0, Gy := 0 } (.affine 0 2) = .error .noInverseExists := by decide
/-- ScalarMultiplyStepCount. -/
theorem witness_smulLoop : smulLoop Config.curve 4 { R := .identity, Q := .affine 2 9, n := 9 } =
    .ok { R := .affine 2 9, Q := .identity, n := 0 } ∧ bitlen 9 ≤ 4 ∧ bitlen 2147483647 ≤ 31 := by decide
/-- KdfIgnoresTheXCoordinate: two points of the curve with the same y (R114). -/
theorem witness_same_y : (reg false 4 45).y = (reg false 14 45).y ∧ ¬ (reg false 4 45).outOfRange ∧
    ¬ (reg false 14 45).outOfRange := by decide
theorem witness_illFormed : (Instr.pdbl 0#4 4#4).wellFormed = false := by decide
/-- FailedCommandFailsAgain. -/
theorem witness_failed : small.status.err = false ∧ (after (exec (.pdbl 3#4 3#4) small)).status.err = true := by decide
/-- The frames: every command answers a next state. -/
theorem witness_frames : (∃ t, exec (.modinv (indexField 2) (indexField 0) (indexField 1)) small = .next t) ∧
    (∃ t, exec (.padd (indexField 2) (indexField 0) (indexField 1)) small = .next t) ∧
    (∃ t, exec (.pdbl (indexField 2) (indexField 0)) small = .next t) ∧
    (∃ t, exec (.smul (indexField 2) (indexField 0) (indexField 3)) small = .next t) ∧
    (∃ t, exec (.ldg (indexField 2)) small = .next t) ∧ ∃ t, exec (.kdf (indexField 0)) small = .next t :=
  ⟨⟨_, rfl⟩, ⟨_, rfl⟩, ⟨_, rfl⟩, ⟨_, rfl⟩, ⟨_, rfl⟩, ⟨_, rfl⟩⟩
/-- StepKeepsTheInvariant: states of each kind that meet it. -/
theorem witness_Inv : small.Inv ∧ (issued 6#32).Inv ∧ (small.takeError .kdfIdentity).Inv := by decide
/-- CompletionDelayIsInvisible: two host turns before the completion. -/
theorem witness_delay :
    (State.withHost (issued 6#32) [hostWrite (.x 0) 7#32] [.host, .host, .engine, .reset]).env.turns =
      List.replicate 2 .host ++ .engine :: [.reset] ∧
    (State.withHost (issued 6#32) [hostWrite (.x 0) 7#32] [.host, .host, .engine, .reset]).status.busy = true := by decide
/-- EveryAcceptedCommandCompletes. -/
theorem witness_no_reset : Agent.reset ∉ (State.withHost (issued 6#32) [] [.host]).env.turns ∧
    (State.withHost (issued 6#32) [] [.host]).status.busy = true := by decide
/-- WaitPollsUntilIdle, SequenceEndsOnAnError. -/
theorem witness_wait : (State.withHost small (pseudoWAIT ++ []) []).nextAgent = .host ∧
    (State.withHost (small.takeError .kdfIdentity) [.wait true] []).nextAgent = .host ∧
    (State.withHost (small.takeError .kdfIdentity) [.wait true] []).status.busy = false := by decide
/-- FlagChangesByAgent: a dropped write sets OVR, host writes of 1 clear OVR and ERR, an accepted word sets BUSY and clears DONE. -/
theorem witness_flag_changes :
    (after (step (State.withHost (issued 6#32) [hostWrite (.x 0) 7#32] [.host]))).status.ovr = true ∧
    (after (step (State.withHost small.drop [hostWrite .status 8#32] []))).status.ovr = false ∧
    (after (step (State.withHost (small.takeError .kdfIdentity) [hostWrite .status 4#32] []))).status.err = false ∧
    (after (step (State.withHost small.succeed [hostWrite .cmd 6#32] []))).status.busy = true ∧
    (after (step (State.withHost small.succeed [hostWrite .cmd 6#32] []))).status.done = false := by decide
/-- ScalarMultiplyStepCount, one pass off the curve, from R99's examples: double(1, 1) = (56, 65), and the two ways a pass fails. -/
theorem witness_pass : double Config.curve (.affine 1 1) = .ok (.affine 56 65) ∧
    smulLoop Config.curve 1 { R := .identity, Q := .affine 1 1, n := 3 } =
      .ok { R := .affine 1 1, Q := .affine 56 65, n := 1 } ∧
    add { P := 9, A := 1, B := 0, Gx := 0, Gy := 0 } (.affine 0 0) (.affine 3 0) = .error .noInverseExists ∧
    double { P := 4, A := 1, B := 0, Gx := 0, Gy := 0 } (.affine 0 2) = .error .noInverseExists := by decide
/-- RunLeavesTheCommandsEffect, OperationSequencesReachTheirResults: an idle hardware with each sequence, and both outcomes of
modInverse. -/
theorem witness_run : (State.withHost small (pseudoRUN (.ldg 3#4) ++ pseudoGETPT 3) []).ready ∧ (Instr.ldg 3#4).wellFormed = true ∧
    (State.withHost small (sequenceModInverse (-18) 101 2 0 1) []).ready ∧ (0 : RegIndex) ≠ 1 ∧
    modInverse (-18) 101 = .ok 28 ∧ modInverse 0 0 = .error .noInverseExists ∧
    (State.withHost small (sequenceAdd .identity (.affine 100 100) 2 0 1) []).ready ∧
    (Point.affine 100 100).inRange Config.curve = true ∧ (State.withHost small (sequenceDeriveSymmetricKey 0) []).ready := by decide
/-- KeygenLeavesThePublicPoint, at both ends of the default range of R8; SharedLeavesTheSharedSecret. -/
theorem witness_sequences : drawable 1000 1 = true ∧ drawable 1000 1000 = true ∧
    (State.withHost small (keygen 1000 1 2) []).ready ∧ (0 : Nat) ≤ Config.kmax ∧ 2147483647 ≤ Config.kmax ∧
    (State.withHost small (shared 3 (.affine 6 5) 1 2 2) []).env.turns = [] := by decide

end Sys2Proof.Tests
end

section
/-! PROOFS. Host turns and completions as they act on CMD and ERRCMD (10_state.md R26, R27; 20_memory.md R45, R50). -/

namespace Sys2Proof.Machine

/-! One step, by the agent that has the turn. -/

theorem step_of_host {s : State} (h : s.nextAgent = .host) : step s = .next s.popTurn.hostTurn := by
  simp [step, h, State.turn]

theorem step_of_completing {s : State} (h : s.completing) : ∃ r, step s = .next (s.popTurn.complete r) := by
  obtain ⟨ha, hb⟩ := h
  rcases step_cases s with ⟨h, -⟩ | ⟨-, h, -⟩ | ⟨-, h⟩ | ⟨h, -⟩
  · simp [ha] at h
  · simp [hb] at h
  · exact h
  · simp [ha] at h

/-! CMD in a host turn. -/

theorem State.writeReg_cmd_of_ready {s : State} (v : Word) (h : s.ready) : s.writeReg .cmd v = s.accept v := by
  simp [State.writeReg, Status.accepts, h]

theorem State.writeReg_cmd_of_not_ready {s : State} (v : Word) (h : ¬ s.ready) : s.writeReg .cmd v = s.drop := by
  have hn : s.status.accepts = false := by simpa [Status.accepts] using h
  simp [State.writeReg, hn]

/-- The only host write that can change CMD is one that is accepted (R26). -/
theorem State.writeReg_keeps_cmd_or_accepts (s : State) (r : WindowReg) (v : Word) :
    (s.writeReg r v).cmd = s.cmd ∨ (r = .cmd ∧ s.ready ∧ s.writeReg r v = s.accept v) := by
  rcases s.writeReg_cases r v with h | ⟨-, x, pt, iv, key, h⟩ | h | h | ⟨-, h⟩
  · exact .inl (by rw [h])
  · exact .inl (by rw [h])
  · exact .inl (by rw [h])
  · exact .inr h
  · exact .inl (by rw [h, State.drop_cmd])

/-- The host's turn when its next operation writes a register of the window. -/
theorem State.hostTurn_write {s : State} {r : WindowReg} {v : Word} {rest : List HostOp}
    (h : s.env.program = .access (.write r.offset 4 v) :: rest) :
    s.hostTurn = { s.writeReg r v with
      env := { program := rest, turns := s.env.turns, response := some (memWriteResponse r.offset 4) } } := by
  simp [State.hostTurn, h, State.access, State.effect, State.answer, State.setProgram, (s.writeReg_errcmd_env r v).2]

/-- A host turn changes CMD only by a write to it that a ready hardware accepts (R26, R45). -/
theorem State.hostTurn_keeps_cmd_or_accepts (s : State) :
    s.hostTurn.cmd = s.cmd ∨ (s.ready ∧ s.hostTurn.status.busy = true ∧
      ∃ rest, s.env.program = .access (.write 0x04 4 s.hostTurn.cmd) :: rest) := by
  obtain ⟨e, -, h | ⟨r, v, rest, hp, h⟩⟩ := s.hostTurn_cases
  · exact .inl (by rw [h])
  · rcases s.writeReg_keeps_cmd_or_accepts r v with hc | ⟨rfl, hr, ha⟩
    · exact .inl (by rw [h, ← hc])
    · refine .inr ⟨hr, by simp [h, ha], rest, ?_⟩
      have hw : s.hostTurn.cmd = v := by simp [h, ha]
      rw [hw]
      exact hp

/-! ERRCMD in a host turn and in a completion. -/

/-- No host turn touches ERRCMD (R27). -/
@[simp] theorem State.hostTurn_errcmd (s : State) : s.hostTurn.errcmd = s.errcmd := by
  obtain ⟨e, -, h | ⟨r, v, rest, -, h⟩⟩ := s.hostTurn_cases
  · rw [h]
  · rw [h]
    exact (s.writeReg_errcmd_env r v).1

/-- A completion that succeeds keeps ERRCMD and `ERR`; one that fails puts the word of CMD in ERRCMD and sets `ERR` (R50, R124). -/
theorem State.complete_errcmd_err (s : State) (r : Except ErrorKind Result) :
    ((s.complete r).errcmd = s.errcmd ∧ (s.complete r).status.err = s.status.err) ∨
    ((s.complete r).errcmd = s.cmd ∧ (s.complete r).status.err = true) := by
  cases r with
  | ok r => exact .inl (by simp [State.complete_ok])
  | error e => exact .inr (by simp [State.complete_error])

/-! The clauses of R26 and R27 that speak of a whole step. -/

/-- A step changes CMD only by an accepted host write or by reset (R26). -/
theorem step_changes_cmd {s t : State} (hs : step s = .next t) (hne : t.cmd ≠ s.cmd) :
    (s.nextAgent = .host ∧ s.ready ∧ t.status.busy = true ∧
      ∃ rest, s.env.program = .access (.write 0x04 4 t.cmd) :: rest) ∨
    (s.nextAgent = .reset ∧ t.cmd = 0#32) := by
  rcases step_cases s with ⟨ha, h⟩ | ⟨-, -, h⟩ | ⟨-, r, h⟩ | ⟨ha, h⟩ <;> cases hs.symm.trans h
  · rcases s.popTurn.hostTurn_keeps_cmd_or_accepts with hc | hacc
    · exact absurd hc hne
    · exact .inl ⟨ha, hacc⟩
  · exact absurd s.popTurn_cmd hne
  · exact absurd (s.popTurn.complete_cmd r) hne
  · exact .inr ⟨ha, rfl⟩

/-- A host write of a word to CMD that meets a ready hardware is accepted whole (R26, R45). -/
theorem step_accepts_cmd {s : State} {w : Word} {rest : List HostOp} (ha : s.nextAgent = .host) (hr : s.ready)
    (hp : s.env.program = .access (.write 0x04 4 w) :: rest) :
    ∃ t, step s = .next t ∧ t.cmd = w ∧ t.status.busy = true := by
  have hr' : s.popTurn.ready := hr
  have hp' : s.popTurn.env.program = .access (.write (WindowReg.offset .cmd) 4 w) :: rest := hp
  refine ⟨_, step_of_host ha, ?_⟩
  simp [State.hostTurn_write hp', State.writeReg_cmd_of_ready w hr']

/-- A step changes ERRCMD only by a failing completion or by reset (R27). -/
theorem step_changes_errcmd {s t : State} (hs : step s = .next t) (hne : t.errcmd ≠ s.errcmd) :
    (s.completing ∧ t.status.err = true ∧ t.errcmd = s.cmd) ∨ (s.nextAgent = .reset ∧ t.errcmd = 0#32) := by
  rcases step_cases s with ⟨-, h⟩ | ⟨-, -, h⟩ | ⟨hc, r, h⟩ | ⟨ha, h⟩ <;> cases hs.symm.trans h
  · exact absurd s.popTurn.hostTurn_errcmd hne
  · exact absurd s.popTurn_errcmd hne
  · rcases s.popTurn.complete_errcmd_err r with ⟨hkept, -⟩ | ⟨hword, herr⟩
    · exact absurd hkept hne
    · exact .inl ⟨hc, herr, hword⟩
  · exact .inr ⟨ha, rfl⟩

/-- A completion that ends with `ERR` = 1 has failed, since a running command starts with `ERR` = 0; so it writes ERRCMD (R27). -/
theorem failing_completion_errcmd {s t : State} (hI : s.Inv) (hc : s.completing) (hs : step s = .next t)
    (herr : t.status.err = true) : t.errcmd = s.cmd := by
  obtain ⟨r, h⟩ := step_of_completing hc
  cases hs.symm.trans h
  rcases s.popTurn.complete_errcmd_err r with ⟨-, hkept⟩ | ⟨hword, -⟩
  · obtain ⟨hexcl, -⟩ := hI
    exact absurd ⟨hc.2, hkept.symm.trans herr⟩ hexcl
  · exact hword

end Sys2Proof.Machine
end

section
/-! PROOFS. The parameter registers in the window (10_state.md R28; 20_memory.md R41, R45). -/

namespace Sys2Proof.Machine

/-- The parameter registers of the window (R28). -/
def paramRegs : List WindowReg := [.paramP, .paramA, .paramB, .paramGx, .paramGy]

theorem State.writeReg_of_mem_paramRegs (s : State) {r : WindowReg} (v : Word) (h : r ∈ paramRegs) : s.writeReg r v = s := by
  simp only [paramRegs, List.mem_cons, List.not_mem_nil, or_false] at h
  rcases h with rfl | rfl | rfl | rfl | rfl <;> rfl

/-- Every 4-byte write at a register's offset answers `ok` (R45, R46). -/
@[simp] theorem memWriteResponse_offset (r : WindowReg) : memWriteResponse r.offset 4 = .ok := by
  simp [memWriteResponse]

end Sys2Proof.Machine
end

section
/-! PROOFS. The reset state's registers by index (10_state.md R32). -/

namespace Sys2Proof.Machine

@[simp] theorem State.reset_x_getElem (i : RegIndex) : State.reset.x[i.val] = 0#32 := by fin_cases i <;> rfl
@[simp] theorem State.reset_pt_getElem (i : RegIndex) : State.reset.pt[i.val] = PointReg.cleared := by fin_cases i <;> rfl
@[simp] theorem State.reset_iv_getElem (j : RegIndex) : State.reset.iv[j.val] = 0#32 := by fin_cases j <;> rfl
@[simp] theorem State.reset_key_getElem (j : RegIndex) : State.reset.key[j.val] = 0#32 := by fin_cases j <;> rfl

/-- Every point register reads as `Identity` after reset (R23, R32). -/
@[simp] theorem State.reset_readPt (i : RegIndex) : State.reset.readPt i = .identity := by
  simp [State.readPt, State.readPtReg, PointReg.point, PointReg.cleared]

end Sys2Proof.Machine
end

section
/-! PROOFS. The statements about the registers of 10_state.md: CMD, ERRCMD, the reset values, the parameters. -/

namespace Sys2Proof.Machine

/-- Settles O15: every case of a step but an accepted host write and reset keeps CMD. -/
theorem cmdHoldsTheAcceptedWord : Obligations.CmdHoldsTheAcceptedWord := by
  unfold Obligations.CmdHoldsTheAcceptedWord
  refine ⟨fun _ _ => step_changes_cmd, fun _ _ _ => step_accepts_cmd, fun s w hn => ?_, fun s => ⟨s.memRead_offset .cmd, rfl⟩,
    State.reset_cmd⟩
  calc (s.memWrite (WindowReg.offset .cmd) 4 w).cmd = (s.writeReg .cmd w).cmd := by rw [State.memWrite_offset]
    _ = s.cmd := by rw [State.writeReg_cmd_of_not_ready w hn, State.drop_cmd]

/-- Settles O16: every case of a step but a failing completion and reset keeps ERRCMD. -/
theorem errcmdHoldsTheFailedWord : Obligations.ErrcmdHoldsTheFailedWord := by
  unfold Obligations.ErrcmdHoldsTheFailedWord
  refine ⟨fun _ _ => step_changes_errcmd, fun _ _ => failing_completion_errcmd, fun s v => ⟨s.memWrite_offset .errcmd v, ?_⟩,
    State.reset_errcmd⟩
  calc (s.memWrite (WindowReg.offset .status) 4 v).errcmd = (s.writeReg .status v).errcmd := by rw [State.memWrite_offset]
    _ = s.errcmd := (s.writeReg_errcmd_env .status v).1

/-- Settles O8: the indexed registers by the lemmas above, the others by evaluation of the reset state. -/
theorem resetValues : Obligations.ResetValues := by
  unfold Obligations.ResetValues
  refine ⟨fun i => ⟨State.reset_x_getElem i, State.reset_pt_getElem i, State.reset_readPt i, State.reset_iv_getElem i,
    State.reset_key_getElem i⟩, ?_⟩
  decide

/-- Settles O11: reads and writes at the offsets of the five parameter registers. -/
theorem paramRegistersAreConstant : Obligations.ParamRegistersAreConstant := by
  unfold Obligations.ParamRegistersAreConstant
  refine ⟨fun s => ⟨s.memRead_offset .paramP, s.memRead_offset .paramA, s.memRead_offset .paramB, s.memRead_offset .paramGx,
    s.memRead_offset .paramGy⟩, fun s v a ha => ?_⟩
  obtain ⟨r, hr, rfl⟩ : ∃ r ∈ paramRegs, r.offset = a := List.mem_map.1 ha
  exact ⟨(s.memWrite_offset r v).trans (s.writeReg_of_mem_paramRegs v hr), memWriteResponse_offset r⟩

end Sys2Proof.Machine
end

section
/-! PROOFS. Which accesses reach a register of the window (20_memory.md R41, R42). -/

namespace Sys2Proof.Machine

/-- No register of the map lies at an offset that R42 answers with a bus error. -/
theorem WindowReg.not_badAccess_offset (r : WindowReg) : ¬ badAccess r.offset 4 := by
  cases r with
  | x i | ptTag i | ptX i | ptY i | iv i | key i => fin_cases i <;> decide
  | _ => decide

/-- The map has a register at every aligned offset of the window that R41 does not list as unmapped. -/
theorem regAt_isSome_of_not_badAccess {addr size : Nat} (h : ¬ badAccess addr size) : (regAt addr).isSome = true := by
  have table : ∀ k : Fin 64, ¬ badAccess (4 * k.val) 4 → (regAt (4 * k.val)).isSome = true := by decide
  obtain ⟨k, rfl⟩ : 4 ∣ addr := by omega
  obtain rfl : size = 4 := by omega
  exact table ⟨k, by omega⟩ h

/-- An access that is not one of R42's is a 4-byte access to a register of the map. -/
theorem exists_offset_of_not_badAccess {addr size : Nat} (h : ¬ badAccess addr size) :
    size = 4 ∧ ∃ r : WindowReg, addr = r.offset := by
  obtain ⟨r, hr⟩ := Option.isSome_iff_exists.1 (regAt_isSome_of_not_badAccess h)
  exact ⟨not_not.1 (not_or.1 h).1, r, offset_of_regAt hr⟩

/-- The accesses of R42 reach no register. -/
theorem decodeAccess_of_badAccess {addr size : Nat} (h : badAccess addr size) : decodeAccess addr size = none := by
  cases hd : decodeAccess addr size with
  | none => rfl
  | some r =>
    obtain ⟨rfl, rfl⟩ := decodeAccess_eq_some hd
    exact absurd h r.not_badAccess_offset

end Sys2Proof.Machine
end

section
/-! PROOFS. What the host reads (20_memory.md R44; 10_state.md R22, R25): the words of STATUS and of a tag, and the data registers while a command runs. -/

namespace Sys2Proof.Machine

/-- The tag reads as 1 or 0, its reserved bits as 0 (R22). -/
theorem tagWord_eq (inf : Bool) : tagWord inf = if inf then 1#32 else 0#32 := by
  cases inf <;> rfl

/-- The four flags of STATUS, each at its bit (R25). -/
theorem Status.word_flags (st : Status) :
    st.word.getLsbD 0 = st.busy ∧ st.word.getLsbD 1 = st.done ∧ st.word.getLsbD 2 = st.err ∧ st.word.getLsbD 3 = st.ovr := by
  simp only [Status.word, flagBit, BitVec.getLsbD_append]
  simp

/-- `ERRCODE` of STATUS and the reserved bits on either side of it (R25). -/
theorem Status.word_errCode (st : Status) :
    st.word.extractLsb' 4 4 = 0#4 ∧ st.word.extractLsb' 8 4 = st.errCode ∧ st.word.extractLsb' 12 20 = 0#20 := by
  refine ⟨?_, ?_, ?_⟩ <;> ext j hj <;> simp only [Status.word, BitVec.getElem_extractLsb', BitVec.getLsbD_append]
  · simp
    omega
  · simp [hj]
  · simp
    omega

/-- What stands outside the hardware is not seen in the window. -/
theorem State.memRead_env (s : State) (e : Env) (addr size : Nat) :
    ({ s with env := e } : State).memRead addr size = s.memRead addr size := by
  have content : ∀ r, ({ s with env := e } : State).readReg r = s.readReg r := by
    intro r
    cases r <;> rfl
  simp only [State.memRead, content]

/-- A host turn that meets a running command writes no data register (R45, R46). -/
theorem State.hostTurn_sameData_of_busy {s : State} (h : s.status.busy = true) : s.hostTurn.sameData s := by
  obtain ⟨e, -, ht | ⟨r, v, -, -, ht⟩⟩ := s.hostTurn_cases
  · rw [ht]
    exact ⟨rfl, rfl, rfl, rfl⟩
  · rcases s.writeReg_of_busy r v h with hw | hw | hw <;> rw [ht, hw] <;> exact ⟨rfl, rfl, rfl, rfl⟩

end Sys2Proof.Machine
end

section
/-! PROOFS. What the host writes (20_memory.md R45, R46): STATUS, and the data registers as one list. -/

namespace Sys2Proof.Machine

/-- A host write to STATUS in R45's words: a 1 in bit 3 clears `OVR`, a 1 in bit 2 clears `ERR` while `BUSY` = 0. -/
theorem Status.hostWrite_eq (st : Status) (v : Word) : st.hostWrite v = { st with
    ovr := if v.getLsbD 3 then false else st.ovr
    err := if v.getLsbD 2 = true ∧ st.busy = false then false else st.err } := by
  have hovr : (st.ovr && !v.getLsbD 3) = if v.getLsbD 3 then false else st.ovr := by
    cases v.getLsbD 3 <;> simp
  have herr : (st.err && !(v.getLsbD 2 && !st.busy)) =
      if v.getLsbD 2 = true ∧ st.busy = false then false else st.err := by
    cases v.getLsbD 2 <;> cases st.busy <;> simp
  rw [Status.hostWrite, hovr, herr]

/-- The data registers with the index `i` (R41, R45). -/
def dataRegs (i : RegIndex) : List WindowReg := [.x i, .ptTag i, .ptX i, .ptY i, .iv i, .key i]

/-- While `BUSY` = 1 a write to a data register is dropped (R45, R46). -/
theorem State.writeReg_of_mem_dataRegs_of_busy {s : State} {i : RegIndex} {r : WindowReg} (v : Word) (hr : r ∈ dataRegs i)
    (hb : s.status.busy = true) : s.writeReg r v = s.drop := by
  simp only [dataRegs, List.mem_cons, List.not_mem_nil, or_false] at hr
  rcases hr with rfl | rfl | rfl | rfl | rfl | rfl <;> exact State.ifIdle_of_busy _ hb

/-- A read-only register ignores a host write: ERRCMD and the parameters (R27, R28, R45). -/
theorem State.writeReg_of_readOnly (s : State) {r : WindowReg} (v : Word) (h : r ∈ .errcmd :: paramRegs) :
    s.writeReg r v = s := by
  rcases List.mem_cons.1 h with rfl | h
  · rfl
  · exact s.writeReg_of_mem_paramRegs v h

end Sys2Proof.Machine
end

section
/-! PROOFS. The statements about host accesses of 20_memory.md: bus errors, reads, writes. -/

namespace Sys2Proof.Machine

/-- Settles O12: an access reaches a register of the map exactly when it is none of R42's. -/
theorem busErrorsChangeNothing : Obligations.BusErrorsChangeNothing := by
  unfold Obligations.BusErrorsChangeNothing
  refine ⟨fun s addr size v h => ?_, fun s addr size h => ?_⟩
  · simp [State.memRead, memWriteResponse, State.memWrite, decodeAccess_of_badAccess h]
  · obtain ⟨rfl, r, rfl⟩ := exists_offset_of_not_badAccess h
    exact ⟨⟨r, rfl, s.memRead_offset r⟩, memWriteResponse_offset r⟩

/-- Settles O13: a read at a register's offset delivers its word, and neither a read nor a host turn while a command runs
writes a data register. -/
theorem hostReads : Obligations.HostReads := by
  unfold Obligations.HostReads
  refine ⟨fun s => ⟨s.memRead_offset .status, s.memRead_offset .cmd, s.memRead_offset .errcmd, s.memRead_offset .paramP,
    s.memRead_offset .paramA, s.memRead_offset .paramB, s.memRead_offset .paramGx, s.memRead_offset .paramGy, fun i => ?_⟩,
    fun st => ?_, fun s addr size => ⟨rfl, s.memRead_env _ addr size⟩, fun s t hb ha hs => ?_⟩
  · have tag : s.memRead (0x60 + 16 * i.val) 4 = .data (if s.pt[i.val].inf then 1#32 else 0#32) := by
      rw [← tagWord_eq]
      exact s.memRead_offset (.ptTag i)
    exact ⟨s.memRead_offset (.x i), tag, s.memRead_offset (.ptX i), s.memRead_offset (.ptY i), s.memRead_offset (.iv i),
      s.memRead_offset (.key i)⟩
  · obtain ⟨hbusy, hdone, herr, hovr⟩ := st.word_flags
    exact ⟨hbusy, hdone, herr, hovr, st.word_errCode⟩
  · cases hs.symm.trans (step_of_host ha)
    exact s.popTurn.hostTurn_sameData_of_busy hb

/-- Settles O14: each offset is a register's, and the write is that register's row of R45. -/
theorem hostWritesByRegister : Obligations.HostWritesByRegister := by
  unfold Obligations.HostWritesByRegister
  refine ⟨fun s v => ?_, fun s v hb he => ?_, fun s v h => ?_, fun s v a ha => ?_, fun s v i hb => ?_, fun s v i a hb ha => ?_,
    memWriteResponse_offset⟩
  · rw [← Status.hostWrite_eq]
    exact s.memWrite_offset .status v
  · exact (s.memWrite_offset .cmd v).trans (State.writeReg_cmd_of_ready v ⟨hb, he⟩)
  · have hn : ¬ s.ready := by rintro ⟨hb, he⟩; simp [hb, he] at h
    exact (s.memWrite_offset .cmd v).trans (State.writeReg_cmd_of_not_ready v hn)
  · obtain ⟨r, hr, rfl⟩ : ∃ r ∈ .errcmd :: paramRegs, r.offset = a := List.mem_map.1 ha
    exact (s.memWrite_offset r v).trans (s.writeReg_of_readOnly v hr)
  · have idle : ∀ {r : WindowReg} {s' : State}, s.writeReg r v = s.ifIdle s' → s.memWrite r.offset 4 v = s' := fun h =>
      (s.memWrite_offset _ v).trans (h.trans (State.ifIdle_of_idle _ hb))
    exact ⟨idle (r := .x i) rfl, idle (r := .ptTag i) rfl, idle (r := .ptX i) rfl, idle (r := .ptY i) rfl,
      idle (r := .iv i) rfl, idle (r := .key i) rfl⟩
  · obtain ⟨r, hr, rfl⟩ : ∃ r ∈ dataRegs i, r.offset = a := List.mem_map.1 ha
    exact (s.memWrite_offset r v).trans (State.writeReg_of_mem_dataRegs_of_busy v hr hb)

end Sys2Proof.Machine
end

section
/-! PROOFS. The illegal words by opcode, their acceptance and their completion (30_encoding.md R64). -/

namespace Sys2Proof

theorem RegField.legal_iff (r : RegField) : RegField.legal r = true ↔ r.toNat < 4 := by
  simp [RegField.legal]

/-- An opcode is one that R64 excludes, or one of R63's. -/
theorem opcode_cases (op : BitVec 8) :
    op = 0x00#8 ∨ 0x07 ≤ op.toNat ∨ op = 0x01#8 ∨ op = 0x02#8 ∨ op = 0x03#8 ∨ op = 0x04#8 ∨ op = 0x05#8 ∨ op = 0x06#8 := by
  bv_omega

/-- The grounds of R64, by opcode: what makes a word miss every row of the opcode map. -/
def illegalGrounds (w : Word) : Prop :=
  fieldZero w ≠ 0#12 ∨ fieldOp w = 0x00#8 ∨ 0x07 ≤ (fieldOp w).toNat ∨
  (fieldOp w ∈ [0x01#8, 0x02#8, 0x04#8] ∧ (4 ≤ (fieldRd w).toNat ∨ 4 ≤ (fieldRs1 w).toNat ∨ 4 ≤ (fieldRs2 w).toNat)) ∨
  (fieldOp w = 0x03#8 ∧ (4 ≤ (fieldRd w).toNat ∨ 4 ≤ (fieldRs1 w).toNat ∨ fieldRs2 w ≠ 0#4)) ∨
  (fieldOp w = 0x05#8 ∧ (fieldRd w ≠ 0#4 ∨ 4 ≤ (fieldRs1 w).toNat ∨ fieldRs2 w ≠ 0#4)) ∨
  (fieldOp w = 0x06#8 ∧ (4 ≤ (fieldRd w).toNat ∨ fieldRs1 w ≠ 0#4 ∨ fieldRs2 w ≠ 0#4))

/-- A row's four conditions beside the opcode do not all hold: in the row's order, and in the order of R64's grounds. -/
theorem not_row_fields_iff (zero rs2 rs1 rd : Prop) : ¬ (zero ∧ rs2 ∧ rs1 ∧ rd) ↔ ¬ zero ∨ ¬ rd ∨ ¬ rs1 ∨ ¬ rs2 := by
  tauto

/-- The decoder refuses a word exactly when no row of the opcode map holds (R64, R66). -/
theorem decode_error_iff_no_row (w : Word) : (∃ e, decode w = .error e) ↔ ∀ r ∈ opcodeMap, ¬ r.holds w = true := by
  unfold decode
  split_ifs <;> simp [opcodeMap, *]

/-- Each opcode leaves at most one row that could hold, and that row asks for what R64's ground for the opcode denies. -/
theorem no_row_iff_illegalGrounds (w : Word) : (∀ r ∈ opcodeMap, ¬ r.holds w = true) ↔ illegalGrounds w := by
  simp only [opcodeMap, List.forall_mem_cons, List.not_mem_nil, false_implies, implies_true, and_true, rowModinv_iff,
    rowPadd_iff, rowPdbl_iff, rowSmul_iff, rowKdf_iff, rowLdg_iff, RegField.legal_iff, illegalGrounds]
  rcases opcode_cases (fieldOp w) with h | h | h | h | h | h | h | h
  · simp [h]
  · have hne (c : BitVec 8) (hc : c.toNat < 7) : fieldOp w ≠ c := by rintro rfl; omega
    simp [h, hne]
  all_goals simp [h, not_row_fields_iff, -not_and]

end Sys2Proof

namespace Sys2Proof.Machine

/-- The completion of an illegal word is the error entry with IllegalCommand (R64, R124). -/
theorem step_of_illegal_word {s : State} (h : s.completing) (hd : ∃ e, decode s.cmd = .error e) :
    step s = .next (s.popTurn.takeError .illegalCommand) := by
  obtain ⟨ha, hb⟩ := h
  obtain ⟨e, hd⟩ := hd
  simp [step, ha, State.turn, State.engineTurn, hb, State.completion, hd]

/-- Settles O4: the grounds are the ways to miss every row of the opcode map, and an illegal word's completion is the error
entry. -/
theorem illegalWordsRaiseIllegalCommand : Obligations.IllegalWordsRaiseIllegalCommand := by
  unfold Obligations.IllegalWordsRaiseIllegalCommand
  refine ⟨fun w => (decode_error_iff_no_row w).trans (no_row_iff_illegalGrounds w), ⟨.opcode, by decide⟩, fun s w h => ?_,
    fun s => step_of_illegal_word⟩
  exact (s.memWrite_offset .cmd w).trans (State.writeReg_cmd_of_ready w h)

end Sys2Proof.Machine
end

section
/-! PROOFS. How the Euclidean loop ends (40_modinv.md R82), and what modInverse answers (R83). -/

namespace Sys2Proof.Machine

/-- Any number of passes keeps what ties each coefficient to its remainder. -/
theorem euclidLoop_congr {a p : Int} (n : Nat) : ∀ {e : EuclidState}, p ∣ e.t0 * a - e.r0 → p ∣ e.t1 * a - e.r1 →
    p ∣ (euclidLoop n e).t0 * a - (euclidLoop n e).r0 ∧ p ∣ (euclidLoop n e).t1 * a - (euclidLoop n e).r1 := by
  induction n with
  | zero => exact fun h0 h1 => ⟨h0, h1⟩
  | succ n ih =>
    intro e h0 h1
    by_cases he : e.r1 = 0
    · rw [euclidLoop_done _ he]
      exact ⟨h0, h1⟩
    · obtain ⟨h0', h1'⟩ := euclidBody_congr h0 h1
      rw [euclidLoop_pass n he]
      exact ih h0' h1'

/-- With as many passes as the second remainder, or more, the loop ends with the gcd of the two remainders. -/
theorem euclidLoop_r0_eq_gcd (n : Nat) : ∀ {e : EuclidState}, e.r1 ≤ n → (euclidLoop n e).r0 = Nat.gcd e.r0 e.r1 := by
  induction n with
  | zero =>
    intro e h
    have he : e.r1 = 0 := Nat.le_zero.1 h
    rw [euclidLoop_done _ he, he, Nat.gcd_zero_right]
  | succ n ih =>
    intro e h
    by_cases he : e.r1 = 0
    · rw [euclidLoop_done _ he, he, Nat.gcd_zero_right]
    · have hlt := euclidBody_r1_lt he
      rw [euclidLoop_pass n he, ih (by omega), euclidBody_gcd]

/-- The loop starts with two remainders whose gcd is that of `a` and `p`. -/
theorem euclidStart_gcd (a : Int) {p : Nat} (hp : 1 ≤ p) :
    Nat.gcd (euclidStart a p).r0 (euclidStart a p).r1 = Int.gcd a p := by
  have h : 0 ≤ a % (p : Int) := Int.emod_nonneg _ (by omega)
  calc Nat.gcd p (a % (p : Int)).toNat = Int.gcd p ((a % (p : Int)).toNat : Int) := rfl
    _ = Int.gcd a p := by rw [Int.toNat_of_nonneg h, Int.gcd_comm, Int.gcd_emod]

/-- Where the loop of modInverse ends. -/
def euclidEnd (a : Int) (p : Nat) : EuclidState := euclidLoop (euclidStart a p).r1 (euclidStart a p)

/-- The loop of modInverse ends with the gcd. -/
theorem euclidEnd_r0 (a : Int) {p : Nat} (hp : 1 ≤ p) : (euclidEnd a p).r0 = Int.gcd a p :=
  (euclidLoop_r0_eq_gcd _ le_rfl).trans (euclidStart_gcd a hp)

/-- The coefficient it ends with multiplies `a` to the gcd modulo `p`. -/
theorem euclidEnd_t0_mul (a : Int) {p : Nat} (hp : 1 ≤ p) : (euclidEnd a p).t0 * a ≡ Int.gcd a p [ZMOD p] := by
  obtain ⟨h0, h1⟩ := euclidStart_congr a hp
  obtain ⟨h, -⟩ := euclidLoop_congr (euclidStart a p).r1 h0 h1
  rw [← euclidEnd_r0 a hp]
  exact (Int.modEq_iff_dvd.2 h).symm

/-- The answer of modInverse for a modulus other than 0, by the loop's end. -/
theorem modInverse_of_pos (a : Int) {p : Nat} (hp : 1 ≤ p) : modInverse a p =
    if (euclidEnd a p).r0 ≠ 1 then .error .noInverseExists else .ok (emod (euclidEnd a p).t0 p) :=
  if_neg (Nat.ne_of_gt hp)

theorem modInverse_zero (a : Int) : modInverse a 0 = .error .noInverseExists := rfl

/-- Without an inverse, by a modulus 0 or a common divisor, modInverse fails. -/
theorem modInverse_of_not_coprime {a : Int} {p : Nat} (h : p = 0 ∨ Int.gcd a p ≠ 1) :
    modInverse a p = .error .noInverseExists := by
  rcases Nat.eq_zero_or_pos p with rfl | hp
  · exact modInverse_zero a
  · have hg : Int.gcd a p ≠ 1 := h.resolve_left hp.ne'
    rw [modInverse_of_pos a hp, euclidEnd_r0 a hp, if_pos hg]

/-- For coprime operands modInverse answers an inverse. -/
theorem modInverse_of_coprime {a : Int} {p : Nat} (hp : 1 ≤ p) (h : Int.gcd a p = 1) :
    ∃ v, modInverse a p = .ok v ∧ isInverse v a p := by
  have ht : (euclidEnd a p).t0 * a ≡ 1 [ZMOD p] := by simpa [h] using euclidEnd_t0_mul a hp
  refine ⟨emod (euclidEnd a p).t0 p, ?_, Int.emod_nonneg _ (by omega), Int.emod_lt_of_pos _ (by omega),
    ((Int.mod_modEq _ _).mul_right a).trans ht⟩
  rw [modInverse_of_pos a hp, euclidEnd_r0 a hp, if_neg (not_not.2 h)]

/-- An integer has at most one inverse in `[0, p)`. -/
theorem isInverse_unique {u v a : Int} {p : Nat} (hu : isInverse u a p) (hv : isInverse v a p) : u = v := by
  obtain ⟨hu0, hup, hua⟩ := hu
  obtain ⟨hv0, hvp, hva⟩ := hv
  have huv : u ≡ v [ZMOD p] := by
    calc u = u * 1 := (mul_one u).symm
      _ ≡ u * (v * a) [ZMOD p] := Int.ModEq.mul_left u (Int.ModEq.symm hva)
      _ = v * (u * a) := by ring
      _ ≡ v * 1 [ZMOD p] := Int.ModEq.mul_left v hua
      _ = v := mul_one v
  calc u = u % p := (Int.emod_eq_of_lt hu0 hup).symm
    _ = v % p := huv
    _ = v := Int.emod_eq_of_lt hv0 hvp

/-- modInverse sees its first operand modulo `p` only. -/
theorem modInverse_eq_of_emod_eq {a b : Int} {p : Nat} (h : a % p = b % p) : modInverse a p = modInverse b p := by
  have hs : euclidStart a p = euclidStart b p := by simp [euclidStart, emod, h]
  simp only [modInverse, hs]

/-- Modulo 1 every integer has the inverse 0. -/
theorem modInverse_one (a : Int) : modInverse a 1 = .ok 0 := by
  obtain ⟨v, hv, hinv⟩ := modInverse_of_coprime (a := a) le_rfl (by simp)
  have h0 : isInverse 0 a 1 := by simp [isInverse]
  rw [hv, isInverse_unique hinv h0]

/-- Settles O19: the loop ends with the gcd and a coefficient that is the inverse when the gcd is 1. -/
theorem modInverseIsTheUniqueInverse : Obligations.ModInverseIsTheUniqueInverse := by
  unfold Obligations.ModInverseIsTheUniqueInverse
  refine ⟨fun a p hp hg => ?_, fun a p _ hg => modInverse_of_not_coprime (.inr hg), fun a p hp ha => ?_, modInverse_one,
    modInverse_zero, fun a j p => modInverse_eq_of_emod_eq (Int.add_mul_emod_self_right a j p)⟩
  · obtain ⟨v, hv, hinv⟩ := modInverse_of_coprime hp hg
    exact ⟨v, hv, hinv, fun u hu => isInverse_unique hu hinv⟩
  · have hg : Int.gcd a p = p := by rw [← Int.gcd_emod, ha, Int.gcd_zero_left, Int.natAbs_natCast]
    exact modInverse_of_not_coprime (.inr (by omega))

end Sys2Proof.Machine
end

section
/-! PROOFS. The command MODINV (40_modinv.md R84): its word, and its two ends. -/

namespace Sys2Proof

/-- A word decodes to MODINV exactly when MODINV's row holds: no other row of the opcode map gives the command. -/
theorem decode_eq_modinv_iff (w : Word) :
    decode w = .ok (.modinv (fieldRd w) (fieldRs1 w) (fieldRs2 w)) ↔ rowModinv.holds w = true := by
  constructor
  · intro h
    by_contra hrow
    rw [decode, if_neg hrow] at h
    split_ifs at h <;> cases h
  · intro h
    rw [decode, if_pos h]

end Sys2Proof

namespace Sys2Proof.Machine

/-- MODINV completes with what modInverse answers for its two sources, read signed and unsigned. -/
theorem exec_modinv (s : State) (d a m : RegIndex) :
    exec (.modinv (indexField d) (indexField a) (indexField m)) s = .next (s.complete
      ((modInverse s.x[a.val].toInt s.x[m.val].toNat).map fun v => .intReg d (BitVec.ofInt 32 v))) := by
  simp only [exec, execModinv, modinvResult, fieldIndex_indexField, bind, Except.bind, pure, Except.pure,
    State.readX, sint, uint, zext32]
  cases modInverse s.x[a.val].toInt s.x[m.val].toNat <;> rfl

/-- Settles O21: the row of the opcode map for the encoding, and both answers of modInverse for the completion. -/
theorem modinvCommand : Obligations.ModinvCommand := by
  unfold Obligations.ModinvCommand
  refine ⟨fun w => ?_, fun s d a m => ⟨fun hm hg => ?_, fun h => ?_⟩⟩
  · exact beq_iff_eq.symm.trans (decode_eq_modinv_iff w).symm
  · obtain ⟨v, hv, hinv⟩ := modInverse_of_coprime (Nat.pos_of_ne_zero hm) hg
    refine ⟨v, hinv, ?_⟩
    rw [exec_modinv, hv]
    exact congrArg _ (s.succeed_intReg d _)
  · rw [exec_modinv, modInverse_of_not_coprime h]
    exact congrArg _ (s.takeError_eq .noInverseExists)

end Sys2Proof.Machine
end

section
/-! PROOFS. Which words decode to a command of the point algebra (30_encoding.md R63; 41_point_algebra.md R95 to R97). -/

namespace Sys2Proof

/-- The row of the opcode map that gives a command (R63). -/
def Instr.row : Instr → OpcodeRow
  | .modinv _ _ _ => rowModinv
  | .padd _ _ _ => rowPadd
  | .pdbl _ _ => rowPdbl
  | .smul _ _ _ => rowSmul
  | .kdf _ => rowKdf
  | .ldg _ => rowLdg

/-- The decoder gives a command for a word of that command's row only. -/
theorem row_holds_of_decode {w : Word} {i : Instr} (h : decode w = .ok i) : i.row.holds w = true := by
  unfold decode at h
  split_ifs at h <;> cases h <;> assumption

/-- PADD's row asks for its opcode, so the row tested before it does not hold. -/
theorem decode_eq_padd_iff (w : Word) :
    decode w = .ok (.padd (fieldRd w) (fieldRs1 w) (fieldRs2 w)) ↔ rowPadd.holds w = true := by
  refine ⟨row_holds_of_decode, fun h => ?_⟩
  obtain ⟨-, -, -, -, hop⟩ := (rowPadd_iff w).1 h
  simp [decode, h, rowModinv_iff, hop]

/-- PDBL's row asks for its opcode, so no row tested before it holds. -/
theorem decode_eq_pdbl_iff (w : Word) :
    decode w = .ok (.pdbl (fieldRd w) (fieldRs1 w)) ↔ rowPdbl.holds w = true := by
  refine ⟨row_holds_of_decode, fun h => ?_⟩
  obtain ⟨-, -, -, -, hop⟩ := (rowPdbl_iff w).1 h
  simp [decode, h, rowModinv_iff, rowPadd_iff, hop]

/-- LDG's row asks for its opcode, so no row tested before it holds. -/
theorem decode_eq_ldg_iff (w : Word) : decode w = .ok (.ldg (fieldRd w)) ↔ rowLdg.holds w = true := by
  refine ⟨row_holds_of_decode, fun h => ?_⟩
  obtain ⟨-, -, -, -, hop⟩ := (rowLdg_iff w).1 h
  simp [decode, h, rowModinv_iff, rowPadd_iff, rowPdbl_iff, rowSmul_iff, rowKdf_iff, hop]

end Sys2Proof
end

section
/-! PROOFS. The cases of double and add for in-range points over an odd prime (41_point_algebra.md R92 to R94). -/

namespace Sys2Proof.Machine

/-- The modulus of this hardware is prime (R5). -/
theorem curve_P_prime : Config.curve.P.Prime := by norm_num [Config.curve]

/-- Modulo a prime, modInverse answers for every integer the prime does not divide, reduced first as in R92 and R93. -/
theorem exists_modInverse_emod_of_prime {a : Int} {p : Nat} (hp : p.Prime) (ha : ¬ (p : Int) ∣ a) :
    ∃ i, modInverse (emod a p) p = .ok i ∧ isInverse i a p := by
  have hg : Int.gcd a p = 1 := by
    rw [Int.gcd_comm, ← Int.isCoprime_iff_gcd_eq_one]
    exact (Nat.prime_iff_prime_int.1 hp).coprime_iff_not_dvd.2 ha
  have hred : modInverse (emod a p) p = modInverse a p := modInverse_eq_of_emod_eq (Int.emod_emod a p)
  rw [hred]
  exact modInverse_of_coprime hp.one_le hg

variable {c : CurveParams} {x y x1 y1 x2 y2 : Int}

/-- `double` of a point with `y` = 0 is `Identity` (R92). -/
theorem double_y_zero (c : CurveParams) (x : Int) : double c (.affine x 0) = .ok .identity := rfl

/-- `double` of a point with `0 < y < P`: an odd prime does not divide `2*y`, and the tangent formula applies (R92). -/
theorem double_tangent (hP : c.P.Prime) (h2 : c.P ≠ 2) (hy : 0 < y) (hyP : y < c.P) :
    ∃ i sl x3, isInverse i (2 * y) c.P ∧ sl = (3 * (x * x) + c.A) * i % c.P ∧ x3 = (sl * sl - 2 * x) % c.P ∧
      double c (.affine x y) = .ok (.affine x3 ((sl * (x - x3) - y) % c.P)) := by
  have hndvd : ¬ (c.P : Int) ∣ 2 * y := by
    rw [(Nat.prime_iff_prime_int.1 hP).dvd_mul, not_or]
    refine ⟨fun h => h2 ?_, fun h => hy.ne' (Int.eq_zero_of_dvd_of_nonneg_of_lt hy.le hyP h)⟩
    exact (Nat.prime_dvd_prime_iff_eq hP Nat.prime_two).1 (Int.natCast_dvd_natCast.1 h)
  obtain ⟨i, hi, hinv⟩ := exists_modInverse_emod_of_prime hP hndvd
  refine ⟨i, _, _, hinv, rfl, rfl, ?_⟩
  rw [double, if_neg hy.ne', hi, two_mul, ← sub_sub]
  rfl

theorem add_identity_left (c : CurveParams) (Q : Point) : add c .identity Q = .ok Q := rfl

theorem add_identity_right (c : CurveParams) (Q : Point) : add c Q .identity = .ok Q := by cases Q <;> rfl

/-- `add` of an Affine point and itself is its `double` (R93). -/
theorem add_self (c : CurveParams) (x y : Int) : add c (.affine x y) (.affine x y) = double c (.affine x y) :=
  if_pos ⟨rfl, rfl⟩

/-- `add` of two points with the same x and another y is `Identity` (R93). -/
theorem add_same_x (c : CurveParams) (x : Int) (hy : y1 ≠ y2) : add c (.affine x y1) (.affine x y2) = .ok .identity := by
  simp [add, hy]

/-- `add` of points whose x-coordinates differ by less than a prime `P`: the chord formula applies (R93). -/
theorem add_chord (hP : c.P.Prime) (hx : x1 ≠ x2) (hd : |x2 - x1| < c.P) :
    ∃ i sl x3, isInverse i (x2 - x1) c.P ∧ sl = (y2 - y1) * i % c.P ∧ x3 = (sl * sl - x1 - x2) % c.P ∧
      add c (.affine x1 y1) (.affine x2 y2) = .ok (.affine x3 ((sl * (x1 - x3) - y1) % c.P)) := by
  have hndvd : ¬ (c.P : Int) ∣ x2 - x1 := fun h => hx.symm (sub_eq_zero.1 (Int.eq_zero_of_abs_lt_dvd h hd))
  obtain ⟨i, hi, hinv⟩ := exists_modInverse_emod_of_prime hP hndvd
  refine ⟨i, _, _, hinv, rfl, rfl, ?_⟩
  rw [add, if_neg (fun h => hx h.1), if_neg hx, hi]
  rfl

end Sys2Proof.Machine
end

section
/-! PROOFS. The commands PADD, PDBL and LDG (41_point_algebra.md R95 to R97): the ends of each by the range check and the
function. -/

namespace Sys2Proof.Machine

/-- A register with its tag set holds `Identity` (R23). -/
theorem PointReg.point_of_inf {q : PointReg} (h : q.inf = true) : q.point = .identity := by
  simp [PointReg.point, h]

/-- A register with its tag clear holds the point of its two unsigned coordinates (R23). -/
theorem PointReg.point_of_not_inf {q : PointReg} (h : q.inf = false) : q.point = .affine q.x.toNat q.y.toNat := by
  simp [PointReg.point, h, uint]

/-- A register that passes the range check and is not `Identity` holds two coordinates below `P` (R91). -/
theorem PointReg.lt_P_of_not_outOfRange {q : PointReg} (h : ¬ q.outOfRange) (hi : q.inf = false) :
    q.x.toNat < Config.curve.P ∧ q.y.toNat < Config.curve.P := by
  simpa [PointReg.outOfRange, hi] using h

/-- PADD completes with the range checks of its sources in order, then `add` (R95). -/
theorem exec_padd (s : State) (d a b : RegIndex) :
    exec (.padd (indexField d) (indexField a) (indexField b)) s = .next (s.complete do
      checkRange Config.curve s.pt[a.val].point
      checkRange Config.curve s.pt[b.val].point
      let R ← add Config.curve s.pt[a.val].point s.pt[b.val].point
      return .pointReg d R) := by
  simp only [exec, execPadd, paddResult, fieldIndex_indexField]
  rfl

/-- PDBL completes with the range check of its source, then `double` (R96). -/
theorem exec_pdbl (s : State) (d a : RegIndex) :
    exec (.pdbl (indexField d) (indexField a)) s = .next (s.complete do
      checkRange Config.curve s.pt[a.val].point
      let R ← double Config.curve s.pt[a.val].point
      return .pointReg d R) := by
  simp only [exec, execPdbl, pdblResult, fieldIndex_indexField]
  rfl

variable {s : State} {a b : RegIndex} {R : Point}

theorem exec_padd_of_outOfRange (d : RegIndex) (h : s.pt[a.val].outOfRange ∨ s.pt[b.val].outOfRange) :
    exec (.padd (indexField d) (indexField a) (indexField b)) s = .next (s.afterError 4#4) := by
  rw [exec_padd]
  by_cases ha : s.pt[a.val].outOfRange
  · rw [checkRange_of_outOfRange ha]
    rfl
  · rw [checkRange_of_not_outOfRange ha, checkRange_of_outOfRange (h.resolve_left ha)]
    rfl

theorem exec_padd_of_add (d : RegIndex) (ha : ¬ s.pt[a.val].outOfRange) (hb : ¬ s.pt[b.val].outOfRange)
    (hR : add Config.curve s.pt[a.val].point s.pt[b.val].point = .ok R) :
    exec (.padd (indexField d) (indexField a) (indexField b)) s = .next (s.afterPoint d (PointReg.ofPoint R)) := by
  rw [exec_padd, checkRange_of_not_outOfRange ha, checkRange_of_not_outOfRange hb, hR]
  rfl

theorem exec_pdbl_of_outOfRange (d : RegIndex) (h : s.pt[a.val].outOfRange) :
    exec (.pdbl (indexField d) (indexField a)) s = .next (s.afterError 4#4) := by
  rw [exec_pdbl, checkRange_of_outOfRange h]
  rfl

theorem exec_pdbl_of_double (d : RegIndex) (ha : ¬ s.pt[a.val].outOfRange)
    (hR : double Config.curve s.pt[a.val].point = .ok R) :
    exec (.pdbl (indexField d) (indexField a)) s = .next (s.afterPoint d (PointReg.ofPoint R)) := by
  rw [exec_pdbl, checkRange_of_not_outOfRange ha, hR]
  rfl

/-- LDG writes the generator (R97). -/
theorem exec_ldg (s : State) (d : RegIndex) :
    exec (.ldg (indexField d)) s = .next (s.afterPoint d (affineReg Config.curve.Gx Config.curve.Gy)) := by
  simp only [exec, execLdg, ldgResult, fieldIndex_indexField]
  rfl

end Sys2Proof.Machine
end

section
/-! PROOFS. The statements about the commands of 41_point_algebra.md. -/

namespace Sys2Proof.Machine

/-- Settles O22: the row of the opcode map for the encoding, the range checks, and one case of `add` for each clause. -/
theorem paddCommand : Obligations.PaddCommand := by
  unfold Obligations.PaddCommand
  refine ⟨fun w => beq_iff_eq.symm.trans (decode_eq_padd_iff w).symm, fun s d a b q1 q2 h1 h2 => ?_⟩
  subst h1 h2
  refine ⟨exec_padd_of_outOfRange d, fun hr1 hr2 => ?_⟩
  have ends {R : Point} := exec_padd_of_add (R := R) d hr1 hr2
  refine ⟨fun hi1 hi2 => ends (R := .identity) ?_, fun hi1 hi2 => ?_, fun hi1 hi2 => ?_,
    fun hi1 hi2 x1 y1 x2 y2 hx1 hy1 hx2 hy2 => ?_⟩
  · rw [PointReg.point_of_inf hi1, PointReg.point_of_inf hi2, add_identity_left]
  · have h := ends (by rw [PointReg.point_of_inf hi1, add_identity_left])
    rwa [PointReg.ofPoint_point hi2] at h
  · have h := ends (by rw [PointReg.point_of_inf hi2, add_identity_right])
    rwa [PointReg.ofPoint_point hi1] at h
  · obtain ⟨hxP1, hyP1⟩ := PointReg.lt_P_of_not_outOfRange hr1 hi1
    obtain ⟨hxP2, -⟩ := PointReg.lt_P_of_not_outOfRange hr2 hi2
    rw [PointReg.point_of_not_inf hi1, PointReg.point_of_not_inf hi2, ← hx1, ← hy1, ← hx2, ← hy2] at ends
    refine ⟨fun hx hy h0 => ends (R := .identity) ?_, fun hx hy h0 => ?_, fun hx hy => ends (R := .identity) ?_, fun hx => ?_⟩
    · rw [← hx, ← hy, add_self, h0, double_y_zero]
    · rw [← hx, ← hy, add_self] at ends
      obtain ⟨i, sl, x3, hinv, hsl, hx3, hR⟩ := double_tangent (x := x1) curve_P_prime (by decide)
        (show 0 < y1 by omega) (by omega)
      exact ⟨i, sl, x3, hinv, hsl, hx3, ends hR⟩
    · rw [← hx, add_same_x _ _ hy]
    · obtain ⟨i, sl, x3, hinv, hsl, hx3, hR⟩ := add_chord (y1 := y1) (y2 := y2) curve_P_prime hx
        (abs_lt.2 ⟨by omega, by omega⟩)
      exact ⟨i, sl, x3, hinv, hsl, hx3, ends hR⟩

/-- Settles O23: the row of the opcode map for the encoding, the range check, and one case of `double` for each clause. -/
theorem pdblCommand : Obligations.PdblCommand := by
  unfold Obligations.PdblCommand
  refine ⟨fun w => beq_iff_eq.symm.trans (decode_eq_pdbl_iff w).symm, fun s d a q h => ?_⟩
  subst h
  refine ⟨exec_pdbl_of_outOfRange d, fun hr => ?_⟩
  have ends {R : Point} := exec_pdbl_of_double (R := R) d hr
  refine ⟨fun hi => ends (R := .identity) ?_, fun hi h0 => ends (R := .identity) ?_, fun hi h0 x y hx hy => ?_⟩
  · rw [PointReg.point_of_inf hi]
    rfl
  · rw [PointReg.point_of_not_inf hi, h0]
    exact double_y_zero _ _
  · obtain ⟨-, hyP⟩ := PointReg.lt_P_of_not_outOfRange hr hi
    rw [PointReg.point_of_not_inf hi, ← hx, ← hy] at ends
    obtain ⟨i, sl, x3, hinv, hsl, hx3, hR⟩ := double_tangent (x := x) curve_P_prime (by decide)
      (show 0 < y by omega) (by omega)
    exact ⟨i, sl, x3, hinv, hsl, hx3, ends hR⟩

/-- Settles O24: the row of the opcode map for the encoding, and the generator of R5. -/
theorem ldgCommand : Obligations.LdgCommand := by
  unfold Obligations.LdgCommand
  exact ⟨fun w => beq_iff_eq.symm.trans (decode_eq_ldg_iff w).symm, exec_ldg⟩

end Sys2Proof.Machine
end

section
/-! PROOFS. Which words decode to SMUL (30_encoding.md R63; 42_scalar_mult.md R101). -/

namespace Sys2Proof

/-- SMUL's row asks for its opcode, so no row tested before it holds. -/
theorem decode_eq_smul_iff (w : Word) :
    decode w = .ok (.smul (fieldRd w) (fieldRs1 w) (fieldRs2 w)) ↔ rowSmul.holds w = true := by
  refine ⟨row_holds_of_decode, fun h => ?_⟩
  obtain ⟨-, -, -, -, hop⟩ := (rowSmul_iff w).1 h
  simp [decode, h, rowModinv_iff, rowPadd_iff, rowPdbl_iff, hop]

end Sys2Proof
end

section
/-! PROOFS. In-range points are closed under add and double over an odd prime (41_point_algebra.md R94). -/

namespace Sys2Proof.Machine

variable {c : CurveParams} {x y : Int} {Q Q1 Q2 : Point}

theorem Point.inRange_affine_iff :
    (Point.affine x y).inRange c = true ↔ (0 ≤ x ∧ x < c.P) ∧ 0 ≤ y ∧ y < c.P := by
  simp [Point.inRange, and_assoc]

/-- A point whose coordinates have been reduced is in range. -/
theorem Point.inRange_affine_mod (hP : 0 < c.P) (x y : Int) : (Point.affine (x % c.P) (y % c.P)).inRange c = true := by
  have hP' : (0 : Int) < c.P := by exact_mod_cast hP
  exact Point.inRange_affine_iff.2 ⟨⟨Int.emod_nonneg _ hP'.ne', Int.emod_lt_of_pos _ hP'⟩,
    Int.emod_nonneg _ hP'.ne', Int.emod_lt_of_pos _ hP'⟩

/-- A register that passes the range check holds an in-range point (R91). -/
theorem PointReg.inRange_point {q : PointReg} (h : ¬ q.outOfRange) : q.point.inRange Config.curve = true := by
  cases hi : q.inf with
  | true =>
    rw [PointReg.point_of_inf hi]
    rfl
  | false =>
    obtain ⟨hx, hy⟩ := PointReg.lt_P_of_not_outOfRange h hi
    rw [PointReg.point_of_not_inf hi, Point.inRange_affine_iff]
    omega

theorem double_inRange (hP : c.P.Prime) (h2 : c.P ≠ 2) (hQ : Q.inRange c = true) :
    ∃ R, double c Q = .ok R ∧ R.inRange c = true := by
  cases Q with
  | identity => exact ⟨.identity, rfl, rfl⟩
  | affine x y =>
    obtain ⟨-, hy0, hyP⟩ := Point.inRange_affine_iff.1 hQ
    rcases hy0.eq_or_lt with rfl | hy
    · exact ⟨.identity, double_y_zero c x, rfl⟩
    · obtain ⟨i, sl, x3, -, -, rfl, hR⟩ := double_tangent (x := x) hP h2 hy hyP
      exact ⟨_, hR, Point.inRange_affine_mod hP.pos _ _⟩

theorem add_inRange (hP : c.P.Prime) (h2 : c.P ≠ 2) (hQ1 : Q1.inRange c = true) (hQ2 : Q2.inRange c = true) :
    ∃ R, add c Q1 Q2 = .ok R ∧ R.inRange c = true := by
  match Q1, Q2 with
  | .identity, Q2 => exact ⟨Q2, add_identity_left c Q2, hQ2⟩
  | Q1, .identity => exact ⟨Q1, add_identity_right c Q1, hQ1⟩
  | .affine x1 y1, .affine x2 y2 =>
    by_cases hx : x1 = x2
    · subst hx
      by_cases hy : y1 = y2
      · subst hy
        rw [add_self]
        exact double_inRange hP h2 hQ1
      · exact ⟨.identity, add_same_x c x1 hy, rfl⟩
    · obtain ⟨hx1, -⟩ := Point.inRange_affine_iff.1 hQ1
      obtain ⟨hx2, -⟩ := Point.inRange_affine_iff.1 hQ2
      obtain ⟨i, sl, x3, -, -, rfl, hR⟩ := add_chord (y1 := y1) (y2 := y2) hP hx (abs_lt.2 ⟨by omega, by omega⟩)
      exact ⟨_, hR, Point.inRange_affine_mod hP.pos _ _⟩

end Sys2Proof.Machine
end

section
/-! PROOFS. The loop of scalarMultiply (42_scalar_mult.md R100): when it does not fail, and its corner cases. -/

namespace Sys2Proof.Machine

variable {c : CurveParams} {Q R : Point} {k : Int}

/-- A pass that is made and does not fail leaves the loop one pass fewer. -/
theorem smulLoop_succ {m m' : SmulState} (j : Nat) (hn : m.n ≠ 0) (h : smulBody c m = .ok m') :
    smulLoop c (j + 1) m = smulLoop c j m' := by
  rw [smulLoop, if_neg hn, h]
  rfl

/-- The induction over the passes: what holds at the start and is kept by a body that does not fail there holds at the end of
a loop that does not fail. -/
theorem smulLoop_keeps {I : SmulState → Prop} (body : ∀ m, I m → ∃ m', smulBody c m = .ok m' ∧ I m') (j : Nat) :
    ∀ m, I m → ∃ m', smulLoop c j m = .ok m' ∧ I m' := by
  induction j with
  | zero => exact fun m hm => ⟨m, rfl, hm⟩
  | succ j ih =>
    intro m hm
    by_cases hn : m.n = 0
    · exact ⟨m, if_pos hn, hm⟩
    · obtain ⟨m1, hbody, hm1⟩ := body m hm
      obtain ⟨m2, hloop, hm2⟩ := ih m1 hm1
      exact ⟨m2, (smulLoop_succ j hn hbody).trans hloop, hm2⟩

/-- The accumulation of one pass (R100). -/
def smulSum (c : CurveParams) (m : SmulState) : Except ErrorKind Point := if m.n % 2 = 1 then add c m.R m.Q else .ok m.R

/-- One pass is the accumulation, then the doubling (R100). -/
theorem smulBody_eq (c : CurveParams) (m : SmulState) : smulBody c m = do
    let R ← smulSum c m
    let Q ← double c m.Q
    return { R := R, Q := Q, n := m.n / 2 } := by
  unfold smulBody smulSum
  split <;> rfl

/-- A pass whose accumulation and doubling do not fail. -/
theorem smulBody_of_ok {m : SmulState} {R' Q' : Point} (hR : smulSum c m = .ok R') (hQ : double c m.Q = .ok Q') :
    smulBody c m = .ok { R := R', Q := Q', n := m.n / 2 } := by
  rw [smulBody_eq, hR, hQ]
  rfl

theorem scalarMultiply_of_loop {m : SmulState} (hk : 0 ≤ k)
    (h : smulLoop c (bitlen k.toNat) { R := .identity, Q := Q, n := k.toNat } = .ok m) : scalarMultiply c k Q = .ok m.R := by
  rw [scalarMultiply, if_neg (not_lt.2 hk), h]
  rfl

/-- Result and addend are in range, which every pass over an odd prime keeps. -/
def SmulState.inRange (c : CurveParams) (m : SmulState) : Prop := m.R.inRange c = true ∧ m.Q.inRange c = true

theorem smulBody_inRange (hP : c.P.Prime) (h2 : c.P ≠ 2) (m : SmulState) (hm : m.inRange c) :
    ∃ m', smulBody c m = .ok m' ∧ m'.inRange c := by
  obtain ⟨hR, hQ⟩ := hm
  obtain ⟨Q', hdbl, hQ'⟩ := double_inRange hP h2 hQ
  obtain ⟨R', hsum, hR'⟩ : ∃ R', smulSum c m = .ok R' ∧ R'.inRange c = true := by
    unfold smulSum
    split
    · exact add_inRange hP h2 hR hQ
    · exact ⟨m.R, rfl, hR⟩
  exact ⟨_, smulBody_of_ok hsum hdbl, hR', hQ'⟩

/-- Over an odd prime a scalar that is not negative multiplies every in-range point, with an in-range result. -/
theorem scalarMultiply_inRange (hP : c.P.Prime) (h2 : c.P ≠ 2) (hk : 0 ≤ k) (hQ : Q.inRange c = true) :
    ∃ R, scalarMultiply c k Q = .ok R ∧ R.inRange c = true := by
  obtain ⟨m, hloop, hR, -⟩ := smulLoop_keeps (smulBody_inRange hP h2) (bitlen k.toNat)
    { R := .identity, Q := Q, n := k.toNat } ⟨rfl, hQ⟩
  exact ⟨m.R, scalarMultiply_of_loop hk hloop, hR⟩

/-- The loop does not run for the scalar 0. -/
theorem scalarMultiply_zero (c : CurveParams) (Q : Point) : scalarMultiply c 0 Q = .ok .identity := rfl

/-- The scalar 1 gives the point itself, if the doubling of its one pass does not fail. -/
theorem scalarMultiply_one (h : double c Q = .ok R) : scalarMultiply c 1 Q = .ok Q := by
  have hsum : smulSum c { R := .identity, Q := Q, n := 1 } = .ok Q := add_identity_left c Q
  exact scalarMultiply_of_loop zero_le_one (smulLoop_succ 0 one_ne_zero (smulBody_of_ok hsum h))

/-- A pass from `Identity` as result and addend keeps both. -/
theorem smulBody_identity (m : SmulState) (hm : m.R = .identity ∧ m.Q = .identity) :
    ∃ m', smulBody c m = .ok m' ∧ m'.R = .identity ∧ m'.Q = .identity := by
  obtain ⟨hR, hQ⟩ := hm
  refine ⟨_, smulBody_of_ok ?_ ?_, rfl, rfl⟩
  · rw [smulSum, hR, hQ, add_identity_left, ite_self]
  · rw [hQ]
    rfl

theorem scalarMultiply_identity (c : CurveParams) (hk : 0 ≤ k) : scalarMultiply c k .identity = .ok .identity := by
  obtain ⟨m, hloop, hR, -⟩ := smulLoop_keeps (c := c) smulBody_identity (bitlen k.toNat)
    { R := .identity, Q := .identity, n := k.toNat } ⟨rfl, rfl⟩
  rw [scalarMultiply_of_loop hk hloop, hR]

end Sys2Proof.Machine
end

section
/-! PROOFS. The command SMUL (42_scalar_mult.md R101): its ends by the order of its checks. -/

namespace Sys2Proof.Machine

/-- SMUL completes with the sign of its scalar, then the range check of its source, then `scalarMultiply` (R101). -/
theorem exec_smul (s : State) (d a r : RegIndex) :
    exec (.smul (indexField d) (indexField a) (indexField r)) s = .next (s.complete
      (if s.x[r.val].toInt < 0 then .error .invalidScalar
      else do
        checkRange Config.curve s.pt[a.val].point
        let R ← scalarMultiply Config.curve s.x[r.val].toInt s.pt[a.val].point
        return .pointReg d R)) := by
  simp only [exec, execSmul, smulResult, fieldIndex_indexField]
  rfl

variable {s : State} {a r : RegIndex} {R : Point}

theorem exec_smul_of_neg (d a : RegIndex) (hk : s.x[r.val].toInt < 0) :
    exec (.smul (indexField d) (indexField a) (indexField r)) s = .next (s.afterError 2#4) := by
  rw [exec_smul, if_pos hk]
  rfl

theorem exec_smul_of_outOfRange (d : RegIndex) (hk : 0 ≤ s.x[r.val].toInt) (ha : s.pt[a.val].outOfRange) :
    exec (.smul (indexField d) (indexField a) (indexField r)) s = .next (s.afterError 4#4) := by
  rw [exec_smul, if_neg (not_lt.2 hk), checkRange_of_outOfRange ha]
  rfl

theorem exec_smul_of_scalarMultiply (d : RegIndex) (hk : 0 ≤ s.x[r.val].toInt) (ha : ¬ s.pt[a.val].outOfRange)
    (hR : scalarMultiply Config.curve s.x[r.val].toInt s.pt[a.val].point = .ok R) :
    exec (.smul (indexField d) (indexField a) (indexField r)) s = .next (s.afterPoint d (PointReg.ofPoint R)) := by
  rw [exec_smul, if_neg (not_lt.2 hk), checkRange_of_not_outOfRange ha, hR]
  rfl

end Sys2Proof.Machine
end

section
/-! PROOFS. The statement about the command of 42_scalar_mult.md. -/

namespace Sys2Proof.Machine

/-- Settles O29: the row of the opcode map for the encoding, one end of the command for each check, and the loop's closure of
the in-range points for the result. -/
theorem smulCommand : Obligations.SmulCommand := by
  unfold Obligations.SmulCommand
  refine ⟨fun w => beq_iff_eq.symm.trans (decode_eq_smul_iff w).symm, fun s d a r k q hk hq => ?_⟩
  subst hk hq
  refine ⟨exec_smul_of_neg d a, exec_smul_of_outOfRange d, fun h0 hr => ?_⟩
  have hin := PointReg.inRange_point hr
  obtain ⟨R, hR, hRin⟩ := scalarMultiply_inRange curve_P_prime (by decide) h0 hin
  refine ⟨R, hR, hRin, exec_smul_of_scalarMultiply d h0 hr hR, fun hk => ?_, fun hk => ?_, fun hi => ?_⟩
  · rw [hk, scalarMultiply_zero] at hR
    exact (Except.ok.inj hR).symm
  · obtain ⟨D, hD, -⟩ := double_inRange curve_P_prime (by decide) hin
    rw [hk, scalarMultiply_one hD] at hR
    exact (Except.ok.inj hR).symm
  · rw [PointReg.point_of_inf hi, scalarMultiply_identity _ h0] at hR
    exact (Except.ok.inj hR).symm

end Sys2Proof.Machine
end

section
/-! PROOFS. The decimal string is the library's digits of the number, most significant first (43_kdf.md R110). -/

namespace Sys2Proof.Machine

theorem digitByte_toNat {d : Nat} (h : d < 10) : (digitByte d).toNat = 0x30 + d := by
  rw [digitByte, BitVec.toNat_ofNat]
  omega

/-- While there is more fuel than the number's value, the digits are written out in full, in front of `acc`. -/
theorem decimalDigits_eq (fuel : Nat) : ∀ {n : Nat} (acc : List Byte), n ≠ 0 → n < fuel →
    decimalDigits fuel n acc = ((Nat.digits 10 n).map digitByte).reverse ++ acc := by
  induction fuel with
  | zero => intro n acc _ hn; omega
  | succ fuel ih =>
    intro n acc h0 hn
    rw [decimalDigits, Nat.digits_def' (by decide) (by omega)]
    split
    case isTrue h => simp [h]
    case isFalse h => simp [ih _ h (by omega : n / 10 < fuel)]

theorem decimal_zero : decimal 0 = [0x30#8] := rfl

theorem decimal_of_ne_zero {n : Nat} (h : n ≠ 0) : decimal n = ((Nat.digits 10 n).map digitByte).reverse := by
  rw [decimal, decimalDigits_eq _ _ h (Nat.lt_succ_self n), List.append_nil]

/-- Reading the characters from the most significant one is Horner's evaluation of the digits. -/
theorem decimalValue_map_digitByte {ds : List Nat} (h : ∀ d ∈ ds, d < 10) :
    decimalValue (ds.map digitByte).reverse = Nat.ofDigits 10 ds := by
  rw [decimalValue, List.foldl_reverse]
  induction ds with
  | nil => rfl
  | cons d ds ih =>
    obtain ⟨hd, hds⟩ := List.forall_mem_cons.1 h
    simp [ih hds, digitByte_toNat hd, Nat.ofDigits_cons, add_comm]

theorem decimalValue_decimal (n : Nat) : decimalValue (decimal n) = n := by
  by_cases h : n = 0
  · rw [h]
    rfl
  · rw [decimal_of_ne_zero h, decimalValue_map_digitByte fun d hd => Nat.digits_lt_base (by decide) hd, Nat.ofDigits_digits]

theorem mem_decimal_range {n : Nat} {b : Byte} (hb : b ∈ decimal n) : 0x30 ≤ b.toNat ∧ b.toNat ≤ 0x39 := by
  by_cases h : n = 0
  · rw [h, decimal_zero, List.mem_singleton] at hb
    simp [hb]
  · rw [decimal_of_ne_zero h, List.mem_reverse, List.mem_map] at hb
    obtain ⟨d, hd, rfl⟩ := hb
    have hlt : d < 10 := Nat.digits_lt_base (by decide) hd
    rw [digitByte_toNat hlt]
    omega

/-- The first character is the most significant digit, which is not 0. -/
theorem decimal_head?_ne {n : Nat} (h : n ≠ 0) : (decimal n).head? ≠ some 0x30#8 := by
  have hne : Nat.digits 10 n ≠ [] := Nat.digits_ne_nil_iff_ne_zero.2 h
  have hlast : (Nat.digits 10 n).getLast hne ≠ 0 := Nat.getLast_digit_ne_zero 10 h
  have hlt : (Nat.digits 10 n).getLast hne < 10 := Nat.digits_lt_base (by decide) (List.getLast_mem hne)
  rw [decimal_of_ne_zero h, List.head?_reverse, List.getLast?_map, List.getLast?_eq_getLast_of_ne_nil hne]
  intro hz
  have hval : 0x30 = 0x30 + (Nat.digits 10 n).getLast hne :=
    (congrArg BitVec.toNat (Option.some.inj hz)).symm.trans (digitByte_toNat hlt)
  omega

theorem decimal_ne_nil (n : Nat) : decimal n ≠ [] := by
  by_cases h : n = 0
  · simp [h, decimal_zero]
  · simpa [decimal_of_ne_zero h, Nat.digits_ne_nil_iff_ne_zero] using h

theorem decimal_length_le {n k : Nat} (hk : 1 ≤ k) (h : n < 10 ^ k) : (decimal n).length ≤ k := by
  by_cases h0 : n = 0
  · simpa [h0, decimal_zero] using hk
  · rw [decimal_of_ne_zero h0, List.length_reverse, List.length_map]
    exact (Nat.digits_length_le_iff (by decide) n).2 h

end Sys2Proof.Machine
end

section
/-! PROOFS. The two characters of a byte in the hex digest (43_kdf.md R112). -/

namespace Sys2Proof.Machine

theorem hexChar_toNat (v : BitVec 4) :
    (hexChar v).toNat = if v.toNat < 10 then 0x30 + v.toNat else 0x61 + (v.toNat - 10) := by
  revert v; decide

theorem nibbles_toNat (b : Byte) :
    (b.extractLsb' 4 4).toNat = b.toNat / 16 ∧ (b.extractLsb' 0 4).toNat = b.toNat % 16 := by
  simp only [BitVec.extractLsb'_toNat, Nat.shiftRight_eq_div_pow]
  omega

variable {n j : Nat} (d : Vector Byte n)

theorem hexdigest_getElem_even (hj : j < n) : (hexdigest d)[2 * j] = hexChar (d[j].extractLsb' 4 4) := by
  simp [hexdigest]

theorem hexdigest_getElem_odd (hj : j < n) : (hexdigest d)[2 * j + 1] = hexChar (d[j].extractLsb' 0 4) := by
  have hhalf : (2 * j + 1) / 2 = j := by omega
  simp [hexdigest, hhalf]

end Sys2Proof.Machine
end

section
/-! PROOFS. The packing of bytes into words (20_memory.md R43) and the selection of the IV and the key (43_kdf.md R113). -/

namespace Sys2Proof.Machine

/-- Byte `k` of a packed word, counted from the low end, is byte `4*j + k` of the string (R43). -/
theorem packWord_byte (b : Vector Byte 16) (j : RegIndex) {k : Nat} (hk : k < 4) :
    (packWord b j).extractLsb' (8 * k) 8 = b[4 * j.val + k] := by
  unfold packWord
  match k, hk with
  | 0, _ => exact BitVec.extractLsb'_append_eq_right
  | 1, _ =>
    rw [BitVec.extractLsb'_append_eq_of_le (by decide)]
    exact BitVec.extractLsb'_append_eq_right
  | 2, _ =>
    rw [BitVec.extractLsb'_append_eq_of_le (by decide), BitVec.extractLsb'_append_eq_of_le (by decide)]
    exact BitVec.extractLsb'_append_eq_right
  | 3, _ =>
    rw [BitVec.extractLsb'_append_eq_of_le (by decide), BitVec.extractLsb'_append_eq_of_le (by decide)]
    exact BitVec.extractLsb'_append_eq_left

theorem packWords_getElem (b : Vector Byte 16) (j : RegIndex) : (packWords b)[j.val] = packWord b j := by
  fin_cases j <;> rfl

/-- Packing loses no byte (R43). -/
theorem packWords_byte (b : Vector Byte 16) {i : Nat} (hi : i < 16) :
    (packWords b)[i / 4].extractLsb' (8 * (i % 4)) 8 = b[i] := by
  have h := packWord_byte b ⟨i / 4, by omega⟩ (k := i % 4) (by omega)
  simpa only [← packWords_getElem, Nat.div_add_mod] using h

variable {e i : Nat} (h : Vector Byte (2 * (8 + e)))

theorem selectKey_iv (hi : i < 16) : (selectKey h).iv[i] = h[i] := Vector.getElem_ofFn hi

theorem selectKey_key (hi : i < 16) : (selectKey h).key[i] = h[2 * (8 + e) - 16 + i] := Vector.getElem_ofFn hi

end Sys2Proof.Machine
end

section
/-! PROOFS. Which words decode to KDF (30_encoding.md R63; 43_kdf.md R116). -/

namespace Sys2Proof

/-- KDF's row asks for its opcode, so no row tested before it holds. -/
theorem decode_eq_kdf_iff (w : Word) : decode w = .ok (.kdf (fieldRs1 w)) ↔ rowKdf.holds w = true := by
  refine ⟨row_holds_of_decode, fun h => ?_⟩
  obtain ⟨-, -, -, -, hop⟩ := (rowKdf_iff w).1 h
  simp [decode, h, rowModinv_iff, rowPadd_iff, rowPdbl_iff, rowSmul_iff, hop]

end Sys2Proof
end

section
/-! PROOFS. The command KDF (43_kdf.md R116): its ends by the order of its checks. -/

namespace Sys2Proof.Machine

/-- KDF completes with the check for `Identity`, then the range check of its source, then the derivation (R115, R116). -/
theorem exec_kdf (s : State) (a : RegIndex) :
    exec (.kdf (indexField a)) s = .next (s.complete
      (if s.pt[a.val].point = .identity then .error .kdfIdentity
      else do
        checkRange Config.curve s.pt[a.val].point
        let k ← deriveSymmetricKey Config.hash s.pt[a.val].point
        return .keyMaterial (packWords k.iv) (packWords k.key))) := by
  simp only [exec, execKdf, kdfResult, fieldIndex_indexField]
  rfl

theorem PointReg.point_ne_identity {q : PointReg} (h : q.inf = false) : q.point ≠ .identity := by
  simp [PointReg.point_of_not_inf h]

/-- The key of an Affine register comes from the digest of its y-coordinate (R113, R114). -/
theorem deriveSymmetricKey_point (H : HashFn) {q : PointReg} (h : q.inf = false) :
    deriveSymmetricKey H q.point = .ok (selectKey (hexdigest (H.digest (decimal q.y.toNat)))) := by
  rw [PointReg.point_of_not_inf h]
  rfl

variable {s : State} {a : RegIndex} {k : DerivedKey}

theorem exec_kdf_of_inf (hi : s.pt[a.val].inf = true) : exec (.kdf (indexField a)) s = .next (s.afterError 5#4) := by
  rw [exec_kdf, if_pos (PointReg.point_of_inf hi)]
  rfl

theorem exec_kdf_of_outOfRange (hr : s.pt[a.val].outOfRange) :
    exec (.kdf (indexField a)) s = .next (s.afterError 4#4) := by
  rw [exec_kdf, if_neg (PointReg.point_ne_identity hr.1), checkRange_of_outOfRange hr]
  rfl

theorem exec_kdf_of_deriveSymmetricKey (hi : s.pt[a.val].inf = false) (hr : ¬ s.pt[a.val].outOfRange)
    (hk : deriveSymmetricKey Config.hash s.pt[a.val].point = .ok k) :
    exec (.kdf (indexField a)) s = .next (s.writeKeys (packWords k.iv) (packWords k.key)).succeed := by
  rw [exec_kdf, if_neg (PointReg.point_ne_identity hi), checkRange_of_not_outOfRange hr, hk]
  rfl

end Sys2Proof.Machine
end

section
/-! PROOFS. The statements about 43_kdf.md: the decimal string, the hex digest and the command. -/

namespace Sys2Proof.Machine

/-- Settles O34: each clause is the library's fact about the base-10 digits of `n`. -/
theorem decimalIsCanonical : Obligations.DecimalIsCanonical := by
  unfold Obligations.DecimalIsCanonical
  exact fun n => ⟨decimalValue_decimal n, fun _ => mem_decimal_range, not_imp_not.1 decimal_head?_ne, decimal_zero,
    List.length_pos_of_ne_nil (decimal_ne_nil n), fun h => decimal_length_le (by decide) (by omega),
    fun h => decimal_length_le (by decide) (by omega)⟩

/-- Settles O35: the two characters of a byte are those of its nibbles, and these are its quotient and remainder by 16. -/
theorem hexdigestCharacters : Obligations.HexdigestCharacters := by
  unfold Obligations.HexdigestCharacters
  intro n d j hj
  obtain ⟨hhigh, hlow⟩ := nibbles_toNat d[j]
  rw [hexdigest_getElem_even d hj, hexdigest_getElem_odd d hj, hexChar_toNat, hexChar_toNat, hhigh, hlow]
  exact ⟨rfl, rfl⟩

/-- Settles O37: the row of the opcode map for the encoding, one end of the command for each check, and for the result each
packed byte traced back to the character of the hex digest that was selected for it. -/
theorem kdfCommand : Obligations.KdfCommand := by
  unfold Obligations.KdfCommand
  refine ⟨fun w => beq_iff_eq.symm.trans (decode_eq_kdf_iff w).symm, fun s a q hq => ?_⟩
  subst hq
  refine ⟨exec_kdf_of_inf, exec_kdf_of_outOfRange, fun hi hr => ?_⟩
  have hend := exec_kdf_of_deriveSymmetricKey hi hr (deriveSymmetricKey_point Config.hash hi)
  refine ⟨_, _, hend, fun i hi16 => ⟨?_, ?_⟩⟩
  · exact (packWords_byte _ hi16).trans (selectKey_iv _ hi16)
  · exact (packWords_byte _ hi16).trans (selectKey_key _ hi16)

end Sys2Proof.Machine
end

section
/-! PROOFS. The error return (60_exceptions.md R126): the engine's idle turn and CLRERR. -/

namespace Sys2Proof.Machine

/-- The engine's turn while no command runs takes the turn and nothing else (R50). -/
theorem step_of_engine_of_idle {s : State} (ha : s.nextAgent = .engine) (hb : s.status.busy = false) :
    step s = .next s.popTurn := by
  simp [step, ha, State.turn, State.engineTurn, hb]

theorem State.popTurn_sameRegisters (s : State) : s.popTurn.sameRegisters s :=
  ⟨⟨rfl, rfl, rfl, rfl⟩, rfl, rfl, rfl⟩

/-- CLRERR's word has bit 2 set and bit 3 clear (R68), so the idle hardware clears `ERR` and keeps `OVR`. -/
theorem Status.hostWrite_clrerr {st : Status} (hb : st.busy = false) : st.hostWrite 0x00000004#32 = st.errCleared := by
  simp [Status.hostWrite, Status.errCleared, hb]

theorem State.memWrite_clrerr {s : State} (hb : s.status.busy = false) :
    s.memWrite (WindowReg.offset .status) 4 0x00000004#32 = s.clearError := by
  rw [State.memWrite_offset, State.clearError, ← Status.hostWrite_clrerr hb]
  rfl

/-- ErrorReturn, fourth clause: an idle state with an error in which the engine has the next turn. -/
theorem witness_engine_turn_with_error :
    ({ State.reset.takeError .operandRange with env := { Env.quiet with turns := [.engine] } } : State).nextAgent = .engine ∧
    (State.reset.takeError .operandRange).status.err = true ∧
    (State.reset.takeError .operandRange).status.busy = false := by decide

/-- Settles O42: with `ERR` = 1 the rows of R45 for a dropped CMD write and for data register writes apply, CLRERR is the error
return, and the engine has no command to retry. -/
theorem errorReturn : Obligations.ErrorReturn := by
  unfold Obligations.ErrorReturn
  obtain ⟨-, -, cmdDropped, -, dataWritten, -, -⟩ := hostWritesByRegister
  refine ⟨fun s w he => cmdDropped s w (.inr he), fun s v i _ hb => ⟨s.memRead_offset, dataWritten s v i hb⟩,
    fun s _ hb => State.memWrite_clrerr hb, fun s _ hb ha => ?_⟩
  exact ⟨s.popTurn, step_of_engine_of_idle ha hb, s.popTurn_sameRegisters⟩

end Sys2Proof.Machine
end

section
/-! PROOFS. Reset, and a running command in a host turn (70_reset_and_hazards.md R141; 20_memory.md R45, R46). -/

namespace Sys2Proof.Machine

/-! Reset (R140, R141). -/

theorem step_of_reset {s : State} (h : s.nextAgent = .reset) : step s = .next s.popTurn.resetHardware := by
  simp [step, h, State.turn]

theorem State.resetHardware_sameRegisters (s : State) : s.resetHardware.sameRegisters State.reset :=
  ⟨⟨rfl, rfl, rfl, rfl⟩, rfl, rfl, rfl⟩

/-! A host turn that meets a running command. -/

/-- No host write ends a running command: a drop sets `OVR`, and a write to STATUS clears flags other than `BUSY` (R45, R46). -/
theorem State.hostTurn_busy_of_busy {s : State} (h : s.status.busy = true) : s.hostTurn.status.busy = true := by
  obtain ⟨e, -, ht | ⟨r, v, -, -, ht⟩⟩ := s.hostTurn_cases
  · rw [ht]
    exact h
  · rcases s.writeReg_of_busy r v h with hw | hw | hw <;> rw [ht, hw] <;> exact h

/-- The hardware is not ready for a second command, so CMD keeps the word of the running one (R26, R45). -/
theorem State.hostTurn_cmd_of_busy {s : State} (h : s.status.busy = true) : s.hostTurn.cmd = s.cmd := by
  rcases s.hostTurn_keeps_cmd_or_accepts with hc | ⟨⟨hidle, -⟩, -⟩
  · exact hc
  · simp [h] at hidle

/-- `LDG pt0` runs, an integer register is not 0, and reset has the next turn. -/
def resetDuringLdg : State :=
  { State.reset.accept 6#32 with x := #v[7#32, 0#32, 0#32, 0#32], env := { Env.quiet with turns := [.reset] } }

/-- ResetAbandonsRunningCommand, first clause: reset has the turn in a state whose command runs, and whose STATUS, CMD and data
registers are not those of the reset state. -/
theorem witness_reset_while_busy : resetDuringLdg.nextAgent = .reset ∧ resetDuringLdg.status.busy = true ∧
    resetDuringLdg.cmd ≠ State.reset.cmd ∧ resetDuringLdg.x ≠ State.reset.x := by decide

/-- Settles O9: the reset turn puts the reset value in every register, and each write a host turn can ask for meets `BUSY` = 1. -/
theorem resetAbandonsRunningCommand : Obligations.ResetAbandonsRunningCommand := by
  unfold Obligations.ResetAbandonsRunningCommand
  refine ⟨fun s ha => ⟨_, step_of_reset ha, s.popTurn.resetHardware_sameRegisters⟩, fun s t hb ha hs => ?_⟩
  cases hs.symm.trans (step_of_host ha)
  have hb' : s.popTurn.status.busy = true := hb
  exact ⟨State.hostTurn_busy_of_busy hb', State.hostTurn_cmd_of_busy hb', State.hostTurn_sameData_of_busy hb'⟩

end Sys2Proof.Machine
end

section
/-! PROOFS. Encoding and decoding are inverse on the well-formed commands (30_encoding.md R61, R63, R64), and the count
of the legal words (R65). -/

namespace Sys2Proof

/-- A command's word carries its fields and nothing else, whatever the command (R61, R63). -/
theorem encodingFields (i : Instr) : Laws.EncodingFields.Statement i := by
  cases i with
  | modinv rd ra rm => exact Laws.EncodingFields.modinv rd ra rm
  | padd pd ps1 ps2 => exact Laws.EncodingFields.padd pd ps1 ps2
  | pdbl pd ps1 => exact Laws.EncodingFields.pdbl pd ps1
  | smul pd ps1 rk => exact Laws.EncodingFields.smul pd ps1 rk
  | kdf ps1 => exact Laws.EncodingFields.kdf ps1
  | ldg pd => exact Laws.EncodingFields.ldg pd

/-- A well-formed command has legal register fields: a field it does not use is 0 (R62, R64). -/
theorem legal_fields_of_wellFormed {i : Instr} (h : i.wellFormed = true) :
    RegField.legal i.rdField = true ∧ RegField.legal i.rs1Field = true ∧ RegField.legal i.rs2Field = true := by
  have h0 : RegField.legal 0#4 = true := by decide
  cases i <;> simp_all [Instr.wellFormed, Instr.rdField, Instr.rs1Field, Instr.rs2Field]

/-- The word of a well-formed command meets the command's row of the opcode map. -/
theorem row_holds_encode {i : Instr} (h : i.wellFormed = true) : i.row.holds (encode i) = true := by
  obtain ⟨hop, hrd, hrs1, hrs2, hzero⟩ := encodingFields i
  obtain ⟨ld, l1, l2⟩ := legal_fields_of_wellFormed h
  rw [← hrd] at ld
  rw [← hrs1] at l1
  rw [← hrs2] at l2
  cases i with
  | modinv rd ra rm => exact (rowModinv_iff _).2 ⟨hzero, l2, l1, ld, hop⟩
  | padd pd ps1 ps2 => exact (rowPadd_iff _).2 ⟨hzero, l2, l1, ld, hop⟩
  | pdbl pd ps1 => exact (rowPdbl_iff _).2 ⟨hzero, hrs2, l1, ld, hop⟩
  | smul pd ps1 rk => exact (rowSmul_iff _).2 ⟨hzero, l2, l1, ld, hop⟩
  | kdf ps1 => exact (rowKdf_iff _).2 ⟨hzero, hrs2, l1, hrd, hop⟩
  | ldg pd => exact (rowLdg_iff _).2 ⟨hzero, hrs2, hrs1, ld, hop⟩

/-- The decoder reads the command back from the fields of its word. -/
theorem decode_encode {i : Instr} (h : i.wellFormed = true) : decode (encode i) = .ok i := by
  have hrow := row_holds_encode h
  obtain ⟨-, hrd, hrs1, hrs2, -⟩ := encodingFields i
  cases i with
  | modinv rd ra rm => rw [(decode_eq_modinv_iff _).2 hrow, hrd, hrs1, hrs2]; rfl
  | padd pd ps1 ps2 => rw [(decode_eq_padd_iff _).2 hrow, hrd, hrs1, hrs2]; rfl
  | pdbl pd ps1 => rw [(decode_eq_pdbl_iff _).2 hrow, hrd, hrs1]; rfl
  | smul pd ps1 rk => rw [(decode_eq_smul_iff _).2 hrow, hrd, hrs1, hrs2]; rfl
  | kdf ps1 => rw [(decode_eq_kdf_iff _).2 hrow, hrs1]; rfl
  | ldg pd => rw [(decode_eq_ldg_iff _).2 hrow, hrd]; rfl

/-- The command of a legal word has the word's register fields, where it uses them. -/
theorem eq_fields_of_decode {w : Word} {i : Instr} (h : decode w = .ok i) :
    i ∈ [.modinv (fieldRd w) (fieldRs1 w) (fieldRs2 w), .padd (fieldRd w) (fieldRs1 w) (fieldRs2 w),
      .pdbl (fieldRd w) (fieldRs1 w), .smul (fieldRd w) (fieldRs1 w) (fieldRs2 w), .kdf (fieldRs1 w), .ldg (fieldRd w)] := by
  unfold decode at h
  split_ifs at h <;> cases h <;> simp

/-- A legal word is the word of its command, and its command is well formed (R63, R64). -/
theorem wellFormed_encode_of_decode {w : Word} {i : Instr} (h : decode w = .ok i) : i.wellFormed = true ∧ encode i = w := by
  have hrow := row_holds_of_decode h
  have hi := eq_fields_of_decode h
  simp only [List.mem_cons, List.not_mem_nil, or_false] at hi
  rcases hi with rfl | rfl | rfl | rfl | rfl | rfl
  · obtain ⟨hz, h2, h1, hd, hop⟩ := (rowModinv_iff w).1 hrow
    exact ⟨by simp [Instr.wellFormed, hd, h1, h2], assemble_of_fields hz rfl rfl rfl hop⟩
  · obtain ⟨hz, h2, h1, hd, hop⟩ := (rowPadd_iff w).1 hrow
    exact ⟨by simp [Instr.wellFormed, hd, h1, h2], assemble_of_fields hz rfl rfl rfl hop⟩
  · obtain ⟨hz, h2, h1, hd, hop⟩ := (rowPdbl_iff w).1 hrow
    exact ⟨by simp [Instr.wellFormed, hd, h1], assemble_of_fields hz h2 rfl rfl hop⟩
  · obtain ⟨hz, h2, h1, hd, hop⟩ := (rowSmul_iff w).1 hrow
    exact ⟨by simp [Instr.wellFormed, hd, h1, h2], assemble_of_fields hz rfl rfl rfl hop⟩
  · obtain ⟨hz, h2, h1, hd, hop⟩ := (rowKdf_iff w).1 hrow
    exact ⟨h1, assemble_of_fields hz h2 rfl hd hop⟩
  · obtain ⟨hz, h2, h1, hd, hop⟩ := (rowLdg_iff w).1 hrow
    exact ⟨hd, assemble_of_fields hz h2 h1 rfl hop⟩

/-- Settles O2: the word meets its command's row, and its fields are the command's. -/
theorem decodeOfEncode : Obligations.DecodeOfEncode := by
  unfold Obligations.DecodeOfEncode
  exact fun i => decode_encode

/-- Settles O3: each row asks for legal fields where the command has one, and for 0 elsewhere. -/
theorem legalWordIsItsCommandsWord : Obligations.LegalWordIsItsCommandsWord := by
  unfold Obligations.LegalWordIsItsCommandsWord
  exact fun w i => wellFormed_encode_of_decode

/-! The counts: the words of a family of commands are the image of the family under `encode`. -/

/-- Different registers have different fields. -/
theorem indexField_injective : Function.Injective Machine.indexField := by
  intro i j h
  simpa [Fin.ext_iff] using congrArg BitVec.toNat h

/-- A family of well-formed commands, none listed twice, has as many legal words as members. -/
theorem ncard_words {α : Type} {F : α → Instr} (hF : Function.Injective F) (hwf : ∀ a, (F a).wellFormed = true) :
    Set.ncard {w : Word | ∃ a, decode w = .ok (F a)} = Nat.card α := by
  have hinj : Function.Injective fun a => encode (F a) := by
    intro a b h
    have hd : decode (encode (F a)) = decode (encode (F b)) := congrArg decode h
    rw [decode_encode (hwf a), decode_encode (hwf b)] at hd
    exact hF (Except.ok.inj hd)
  have hrange : {w : Word | ∃ a, decode w = .ok (F a)} = Set.range fun a => encode (F a) := by
    ext w
    constructor
    · rintro ⟨a, h⟩
      exact ⟨a, (wellFormed_encode_of_decode h).2⟩
    · rintro ⟨a, rfl⟩
      exact ⟨a, decode_encode (hwf a)⟩
  rw [hrange, ← Set.image_univ, Set.ncard_image_of_injective _ hinj, Set.ncard_univ]

open Machine (indexField exists_indexField)

/-- A command with three register fields, on the registers of three indexes. -/
def onThree (C : RegField → RegField → RegField → Instr) (p : RegIndex × RegIndex × RegIndex) : Instr :=
  C (indexField p.1) (indexField p.2.1) (indexField p.2.2)

/-- A command with two register fields, on the registers of two indexes. -/
def onTwo (C : RegField → RegField → Instr) (p : RegIndex × RegIndex) : Instr := C (indexField p.1) (indexField p.2)

/-- A command with one register field, on the register of an index. -/
def onOne (C : RegField → Instr) (i : RegIndex) : Instr := C (indexField i)

theorem onThree_injective {C : RegField → RegField → RegField → Instr}
    (hC : ∀ {d a b d' a' b'}, C d a b = C d' a' b' → d = d' ∧ a = a' ∧ b = b') : Function.Injective (onThree C) := by
  intro p q h
  obtain ⟨hd, ha, hb⟩ := hC h
  exact Prod.ext (indexField_injective hd) (Prod.ext (indexField_injective ha) (indexField_injective hb))

theorem onTwo_injective {C : RegField → RegField → Instr} (hC : ∀ {d a d' a'}, C d a = C d' a' → d = d' ∧ a = a') :
    Function.Injective (onTwo C) := by
  intro p q h
  obtain ⟨hd, ha⟩ := hC h
  exact Prod.ext (indexField_injective hd) (indexField_injective ha)

theorem onOne_injective {C : RegField → Instr} (hC : ∀ {d d'}, C d = C d' → d = d') : Function.Injective (onOne C) :=
  fun _ _ h => indexField_injective (hC h)

/-- The register indexes of the well-formed commands, command by command in the order of R63. -/
abbrev CommandIndex : Type :=
  (RegIndex × RegIndex × RegIndex) ⊕ (RegIndex × RegIndex × RegIndex) ⊕ (RegIndex × RegIndex) ⊕
    (RegIndex × RegIndex × RegIndex) ⊕ RegIndex ⊕ RegIndex

/-- The well-formed commands as one family. -/
def commandAt : CommandIndex → Instr :=
  Sum.elim (onThree .modinv) (Sum.elim (onThree .padd) (Sum.elim (onTwo .pdbl) (Sum.elim (onThree .smul)
    (Sum.elim (onOne .kdf) (onOne .ldg)))))

theorem legal_indexField (i : RegIndex) : RegField.legal (indexField i) = true := by
  simp [RegField.legal]

theorem wellFormed_commandAt (p : CommandIndex) : (commandAt p).wellFormed = true := by
  rcases p with p | p | p | p | p | p <;>
    simp [commandAt, onThree, onTwo, onOne, Instr.wellFormed, legal_indexField]

/-- Different commands are different terms, and each command's family lists no term twice. -/
theorem commandAt_injective : Function.Injective commandAt := by
  refine (onThree_injective Instr.modinv.inj).sumElim ?_ ?_
  · refine (onThree_injective Instr.padd.inj).sumElim ?_ ?_
    · refine (onTwo_injective Instr.pdbl.inj).sumElim ?_ ?_
      · refine (onThree_injective Instr.smul.inj).sumElim ?_ ?_
        · exact (onOne_injective Instr.kdf.inj).sumElim (onOne_injective Instr.ldg.inj) (fun _ _ => Instr.noConfusion)
        · rintro _ (_ | _) h <;> cases h
      · rintro _ (_ | _ | _) h <;> cases h
    · rintro _ (_ | _ | _ | _) h <;> cases h
  · rintro _ (_ | _ | _ | _ | _) h <;> cases h

/-- Every well-formed command is in the family. -/
theorem exists_commandAt {i : Instr} (h : i.wellFormed = true) : ∃ p, i = commandAt p := by
  obtain ⟨hd, h1, h2⟩ := legal_fields_of_wellFormed h
  obtain ⟨d, hd⟩ := exists_indexField hd
  obtain ⟨a, ha⟩ := exists_indexField h1
  obtain ⟨b, hb⟩ := exists_indexField h2
  cases i with
  | modinv rd ra rm => exact ⟨.inl (d, a, b), congr (congrArg₂ _ hd ha) hb⟩
  | padd pd ps1 ps2 => exact ⟨.inr (.inl (d, a, b)), congr (congrArg₂ _ hd ha) hb⟩
  | pdbl pd ps1 => exact ⟨.inr (.inr (.inl (d, a))), congrArg₂ _ hd ha⟩
  | smul pd ps1 rk => exact ⟨.inr (.inr (.inr (.inl (d, a, b)))), congr (congrArg₂ _ hd ha) hb⟩
  | kdf ps1 => exact ⟨.inr (.inr (.inr (.inr (.inl a)))), congrArg _ ha⟩
  | ldg pd => exact ⟨.inr (.inr (.inr (.inr (.inr d)))), congrArg _ hd⟩

/-- The legal words of the commands with a property are as many as the family's commands with that property. -/
theorem ncard_words_of (p : Instr → Prop) [DecidablePred p] :
    Set.ncard {w : Word | ∃ i, p i ∧ decode w = .ok i} = Fintype.card {x : CommandIndex // p (commandAt x)} := by
  rw [← Nat.card_eq_fintype_card,
    ← ncard_words (commandAt_injective.comp Subtype.val_injective) fun x => wellFormed_commandAt x.val]
  congr 1
  ext w
  constructor
  · rintro ⟨i, hi, h⟩
    obtain ⟨x, rfl⟩ := exists_commandAt (wellFormed_encode_of_decode h).1
    exact ⟨⟨x, hi⟩, h⟩
  · rintro ⟨x, h⟩
    exact ⟨_, x.property, h⟩

/-- A command is one of the six. -/
theorem exists_instr_iff {p : Instr → Prop} : (∃ i, p i) ↔ (∃ d a m, p (.modinv d a m)) ∨ (∃ d a b, p (.padd d a b)) ∨
    (∃ d a, p (.pdbl d a)) ∨ (∃ d a k, p (.smul d a k)) ∨ (∃ a, p (.kdf a)) ∨ ∃ d, p (.ldg d) := by
  constructor
  · rintro ⟨i, h⟩
    cases i with
    | modinv d a m => exact .inl ⟨d, a, m, h⟩
    | padd d a b => exact .inr (.inl ⟨d, a, b, h⟩)
    | pdbl d a => exact .inr (.inr (.inl ⟨d, a, h⟩))
    | smul d a k => exact .inr (.inr (.inr (.inl ⟨d, a, k, h⟩)))
    | kdf a => exact .inr (.inr (.inr (.inr (.inl ⟨a, h⟩))))
    | ldg d => exact .inr (.inr (.inr (.inr (.inr ⟨d, h⟩))))
  · rintro (⟨_, _, _, h⟩ | ⟨_, _, _, h⟩ | ⟨_, _, h⟩ | ⟨_, _, _, h⟩ | ⟨_, h⟩ | ⟨_, h⟩) <;> exact ⟨_, h⟩

/-- Settles O5: an opcode stands for one command, and its legal words are counted over the register indexes. -/
theorem legalWordCounts : Obligations.LegalWordCounts := by
  unfold Obligations.LegalWordCounts
  have count {op : BitVec 8} {n : Nat} (h : Fintype.card {x : CommandIndex // (commandAt x).opcode = op} = n) :=
    (ncard_words_of fun i => i.opcode = op).trans h
  simp only [exists_instr_iff, Instr.opcode] at count
  refine ⟨?_, ?_, ?_, ?_, ?_, ?_, ?_⟩
  · simpa using count (op := 0x01#8) (n := 64) (by decide)
  · simpa using count (op := 0x02#8) (n := 64) (by decide)
  · simpa using count (op := 0x03#8) (n := 16) (by decide)
  · simpa using count (op := 0x04#8) (n := 64) (by decide)
  · simpa using count (op := 0x05#8) (n := 4) (by decide)
  · simpa using count (op := 0x06#8) (n := 4) (by decide)
  · simpa using ncard_words_of fun _ => True

/-- Settles O1: each word is evaluated. -/
theorem exampleWordsDecode : Obligations.ExampleWordsDecode := by
  unfold Obligations.ExampleWordsDecode
  decide

end Sys2Proof
end

section
/-! PROOFS. What a step does to STATUS (10_state.md R25, R30): the invariant of the status registers, and the agent behind
each change of a flag. -/

namespace Sys2Proof.Machine

/-! The invariant, by what can happen to STATUS, CMD and ERRCMD. -/

/-- The invariant speaks of STATUS, CMD and ERRCMD only. -/
theorem State.Inv.congr {s t : State} (h : s.Inv) (hst : t.status = s.status) (hcmd : t.cmd = s.cmd)
    (herr : t.errcmd = s.errcmd) : t.Inv := by
  unfold State.Inv at h ⊢
  rwa [hst, hcmd, herr]

theorem State.resetHardware_inv (s : State) : s.resetHardware.Inv :=
  (show State.reset.Inv by decide).congr rfl rfl rfl

variable {s : State}

theorem State.Inv.drop (h : s.Inv) : s.drop.Inv := h

/-- Clearing `ERR` or `OVR` leaves the code and the failed word of the last error (R126). -/
theorem State.Inv.hostWrite (h : s.Inv) (v : Word) : State.Inv { s with status := s.status.hostWrite v } := by
  obtain ⟨busy_err, busy_done, done_err, code, noCode, errcmd⟩ := h
  have herr : (s.status.hostWrite v).err = true → s.status.err = true := by simp +contextual
  refine ⟨fun ⟨hb, he⟩ => busy_err ⟨hb, herr he⟩, busy_done, fun ⟨hd, he⟩ => done_err ⟨hd, herr he⟩, code,
    fun hc => ⟨?_, (noCode hc).2⟩, fun he => errcmd (herr he)⟩
  simp [(noCode hc).1]

/-- An acceptance finds `ERR` = 0, so nothing is said of ERRCMD (R45). -/
theorem State.Inv.accept (h : s.Inv) (hr : s.ready) (w : Word) : (s.accept w).Inv := by
  obtain ⟨-, -, -, code, noCode, -⟩ := h
  obtain ⟨-, herr⟩ := hr
  refine ⟨?_, ?_, ?_, code, noCode, ?_⟩ <;> simp [herr]

/-- A running command was accepted with `ERR` = 0 and with `DONE` cleared, so either end sets one of the two alone
(R50, R124). -/
theorem State.Inv.complete (h : s.Inv) (hb : s.status.busy = true) (r : Except ErrorKind Result) : (s.complete r).Inv := by
  obtain ⟨busy_err, busy_done, -, code, noCode, -⟩ := h
  have herr : s.status.err = false := by simpa [hb] using busy_err
  have hdone : s.status.done = false := by simpa [hb] using busy_done
  cases r with
  | ok r =>
    rw [State.complete_ok]
    exact ⟨by simp, by simp, by simp [herr], by simpa using code, by simpa using noCode, by simp [herr]⟩
  | error e =>
    rw [State.complete_error]
    obtain ⟨hpos, hle⟩ := e.code_range
    refine ⟨by simp, by simp, by simp [hdone], hle, fun hc => ?_, by simp⟩
    have hz : e.code = 0#4 := hc
    simp [hz] at hpos

/-- Every host write keeps the invariant. -/
theorem State.Inv.writeReg (h : s.Inv) (r : WindowReg) (v : Word) : (s.writeReg r v).Inv := by
  rcases s.writeReg_cases r v with hw | ⟨-, x, pt, iv, key, hw⟩ | hw | ⟨-, hr, hw⟩ | ⟨-, hw⟩ <;> rw [hw]
  · exact h
  · exact h.congr rfl rfl rfl
  · exact h.hostWrite v
  · exact h.accept hr v
  · exact h.drop

theorem State.Inv.hostTurn (h : s.Inv) : s.hostTurn.Inv := by
  obtain ⟨e, -, ht | ⟨r, v, -, -, ht⟩⟩ := s.hostTurn_cases
  · exact h.congr (by rw [ht]) (by rw [ht]) (by rw [ht])
  · exact (h.writeReg r v).congr (by rw [ht]) (by rw [ht]) (by rw [ht])

/-- Settles O49: each thing that a step can do keeps the invariant. -/
theorem stepKeepsTheInvariant : Obligations.StepKeepsTheInvariant := by
  unfold Obligations.StepKeepsTheInvariant
  intro s t h hs
  have hpop : s.popTurn.Inv := h
  rcases step_cases s with ⟨-, hstep⟩ | ⟨-, -, hstep⟩ | ⟨⟨-, hb⟩, r, hstep⟩ | ⟨-, hstep⟩ <;> cases hs.symm.trans hstep
  · exact hpop.hostTurn
  · exact hpop
  · exact hpop.complete hb r
  · exact s.popTurn.resetHardware_inv

/-- Settles O48: the reset state is evaluated. -/
theorem resetMeetsTheInvariant : Obligations.ResetMeetsTheInvariant := by
  unfold Obligations.ResetMeetsTheInvariant
  decide

/-! The flags. -/

/-- Everything a host write can do to STATUS, with the register it goes to (R45, R46). -/
theorem State.writeReg_status_cases (s : State) (r : WindowReg) (v : Word) :
    (s.writeReg r v).status = s.status ∨
    (r = .status ∧ (s.writeReg r v).status = s.status.hostWrite v) ∨
    (r = .cmd ∧ s.ready ∧ s.writeReg r v = s.accept v) ∨
    ((r = .cmd ∧ ¬ s.ready ∨ s.status.busy = true ∧ ∃ i, r ∈ dataRegs i) ∧ (s.writeReg r v).status = s.status.dropped) := by
  have data : ∀ i s', r ∈ dataRegs i → s.writeReg r v = s.ifIdle s' → s'.status = s.status →
      (s.writeReg r v).status = s.status ∨
      (s.status.busy = true ∧ ∃ i, r ∈ dataRegs i) ∧ (s.writeReg r v).status = s.status.dropped := by
    intro i s' hi hw hs'
    cases hb : s.status.busy with
    | false => exact .inl (by rw [hw, State.ifIdle_of_idle s' hb, hs'])
    | true => exact .inr ⟨⟨rfl, i, hi⟩, by rw [hw, State.ifIdle_of_busy s' hb, State.drop_status]⟩
  cases r with
  | errcmd | paramP | paramA | paramB | paramGx | paramGy => exact .inl rfl
  | status => exact .inr (.inl ⟨rfl, rfl⟩)
  | cmd =>
    by_cases hr : s.ready
    · exact .inr (.inr (.inl ⟨rfl, hr, State.writeReg_cmd_of_ready v hr⟩))
    · exact .inr (.inr (.inr ⟨.inl ⟨rfl, hr⟩, by rw [State.writeReg_cmd_of_not_ready v hr, State.drop_status]⟩))
  | x i | ptTag i | ptX i | ptY i | iv i | key i =>
    rcases data i _ (by simp [dataRegs]) rfl rfl with h | ⟨hd, h⟩
    · exact .inl h
    · exact .inr (.inr (.inr ⟨.inr hd, h⟩))

/-- The host's next operation is a 4-byte write of `v` at the offset `a`. -/
def State.hostWrites (s : State) (a : Nat) (v : Word) : Prop :=
  s.nextAgent = .host ∧ ∃ rest, s.env.program = .access (.write a 4 v) :: rest

/-- A host write that R46 drops: to CMD when the hardware is not ready, or to a data register while `BUSY` = 1. -/
def State.droppedAt (s : State) (a : Nat) : Prop :=
  (a = 0x04 ∧ ¬ s.ready) ∨ (s.status.busy = true ∧ ∃ i, a ∈ (dataRegs i).map WindowReg.offset)

/-- Everything a step can do to STATUS, with the agent that does it (R30). -/
theorem step_status_cases {s t : State} (hs : step s = .next t) :
    t.status = s.status ∨
    (∃ v, s.hostWrites 0x00 v ∧ t.status = s.status.hostWrite v) ∨
    (s.hostWrites 0x04 t.cmd ∧ s.ready ∧ t.status = s.status.accepted) ∨
    (∃ a v, s.hostWrites a v ∧ s.droppedAt a ∧ t.status = s.status.dropped) ∨
    (s.completing ∧ (t.status = s.status.succeeded ∨ ∃ e, t.status = s.status.failed e)) ∨
    (s.nextAgent = .reset ∧ t.status = Status.reset) := by
  rcases step_cases s with ⟨ha, h⟩ | ⟨-, -, h⟩ | ⟨hc, r, h⟩ | ⟨ha, h⟩ <;> cases hs.symm.trans h
  · obtain ⟨e, -, ht | ⟨r, v, rest, hp, ht⟩⟩ := s.popTurn.hostTurn_cases
    · exact .inl (by rw [ht, State.popTurn_status])
    · have hw : s.hostWrites r.offset v := ⟨ha, rest, hp⟩
      rw [ht]
      rcases s.popTurn.writeReg_status_cases r v with h | ⟨rfl, h⟩ | ⟨rfl, hr, h⟩ | ⟨hd, h⟩
      · exact .inl h
      · exact .inr (.inl ⟨v, hw, h⟩)
      · exact .inr (.inr (.inl ⟨by rw [h]; exact hw, hr, by rw [h]; rfl⟩))
      · refine .inr (.inr (.inr (.inl ⟨_, v, hw, ?_, h⟩)))
        rcases hd with ⟨rfl, hr⟩ | ⟨hb, i, hi⟩
        · exact .inl ⟨rfl, hr⟩
        · exact .inr ⟨hb, i, List.mem_map_of_mem hi⟩
  · exact .inl rfl
  · refine .inr (.inr (.inr (.inr (.inl ⟨hc, ?_⟩))))
    cases r with
    | ok r => exact .inl (by simp [State.complete_ok])
    | error e => exact .inr ⟨e, by simp [State.complete_error]⟩
  · exact .inr (.inr (.inr (.inr (.inr ⟨ha, rfl⟩))))

/-- Settles O17: each thing a step can do to STATUS changes the flags that R30 gives it, and no other. -/
theorem flagChangesByAgent : Obligations.FlagChangesByAgent := by
  unfold Obligations.FlagChangesByAgent
  intro s t hs
  rcases step_status_cases hs with h | ⟨v, ⟨ha, rest, hp⟩, h⟩ | ⟨⟨ha, rest, hp⟩, hr, h⟩ | ⟨a, v, ⟨ha, rest, hp⟩, hd, h⟩ |
    ⟨hc, h | ⟨e, h⟩⟩ | ⟨ha, h⟩ <;> rw [h]
  · -- no flag changes
    simp +contextual
  · -- a write to STATUS clears `OVR` and `ERR`
    simp +contextual [ha, hp]
  · -- an acceptance sets `BUSY` and clears `DONE`
    simp +contextual [State.ready, ha, hp, hr.1, hr.2]
  · -- a dropped write sets `OVR`
    simpa +contextual [ha, hp, State.droppedAt, dataRegs, WindowReg.offset] using fun _ => hd
  · -- a completion that succeeds sets `DONE` and clears `BUSY`
    simp +contextual [State.completing, hc.1, hc.2]
  · -- a completion that fails sets `ERR` and clears `BUSY`
    simp +contextual [State.completing, hc.1, hc.2]
  · -- reset clears every flag
    simp +contextual [ha, Status.reset]

end Sys2Proof.Machine
end

section
/-! PROOFS. What a command evaluates to (20_memory.md R50), on what it depends (10_state.md R30), and that an ill-formed term
raises IllegalCommand (30_encoding.md R64). -/

namespace Sys2Proof.Machine

/-- What a command evaluates to, before its completion writes it (R50). -/
def commandResult (i : Instr) (s : State) : Except ErrorKind Result :=
  match i with
  | .modinv rd ra rm => modinvResult rd ra rm s
  | .padd pd ps1 ps2 => paddResult Config.curve pd ps1 ps2 s
  | .pdbl pd ps1 => pdblResult Config.curve pd ps1 s
  | .smul pd ps1 rk => smulResult Config.curve pd ps1 rk s
  | .kdf ps1 => kdfResult Config.curve Config.hash ps1 s
  | .ldg pd => ldgResult Config.curve pd

/-- A command's completion is that of what it evaluates to. -/
theorem exec_eq (i : Instr) (s : State) : exec i s = .next (s.complete (commandResult i s)) := by
  cases i <;> rfl

/-- No command runs after a completion. -/
theorem exec_busy {i : Instr} {s t : State} (h : exec i s = .next t) : t.status.busy = false := by
  rw [exec_eq] at h
  cases h
  exact State.complete_busy _ _

/-! Dependence on the data registers. -/

theorem State.sameData.readX {s u : State} (h : s.sameData u) (i : RegIndex) : s.readX i = u.readX i := by
  obtain ⟨hx, -⟩ := h
  rw [State.readX, State.readX, hx]

theorem State.sameData.readPt {s u : State} (h : s.sameData u) (i : RegIndex) : s.readPt i = u.readPt i := by
  obtain ⟨-, hpt, -⟩ := h
  rw [State.readPt, State.readPt, State.readPtReg, State.readPtReg, hpt]

/-- A command reads integer and point registers only (R30). -/
theorem result_congr {s u : State} (h : s.sameData u) (i : Instr) : commandResult i s = commandResult i u := by
  cases i <;> simp only [commandResult, modinvResult, paddResult, pdblResult, smulResult, kdfResult, h.readX, h.readPt]

/-- What is written depends on what was there and on the result alone. -/
theorem State.sameData.complete {s u : State} (h : s.sameData u) (r : Except ErrorKind Result) :
    (s.complete r).sameData (u.complete r) := by
  obtain ⟨hx, hpt, hiv, hkey⟩ := h
  match r with
  | .error e => exact ⟨hx, hpt, hiv, hkey⟩
  | .ok (.intReg d v) => exact ⟨congrArg (·.set d.val v) hx, hpt, hiv, hkey⟩
  | .ok (.pointReg d Q) => exact ⟨hx, congrArg (·.set d.val (PointReg.ofPoint Q)) hpt, hiv, hkey⟩
  | .ok (.keyMaterial iv key) => exact ⟨hx, hpt, rfl, rfl⟩

theorem State.complete_ok_status (s : State) (r : Result) :
    (s.complete (.ok r)).status = { s.status with busy := false, done := true } := by
  rw [State.complete_ok, State.succeed_status, State.writeResult_status]
  rfl

/-- Settles O18: the result is the same, and so is what a completion makes of it. -/
theorem commandsReadDataRegistersOnly : Obligations.CommandsReadDataRegistersOnly := by
  unfold Obligations.CommandsReadDataRegistersOnly
  intro i s u h
  refine ⟨_, _, exec_eq i s, exec_eq i u, ?_⟩
  rw [← result_congr h i]
  refine ⟨h.complete _, ?_⟩
  cases commandResult i s with
  | ok r => exact .inl ⟨s.complete_ok_status r, u.complete_ok_status r⟩
  | error e => exact .inr ⟨e, rfl, rfl⟩

/-! Ill-formed terms. The fields are looked at first, whatever the command does with the registers they name. -/

variable {β : Type} {r1 r2 r3 : RegField}

theorem fieldIndex_bind_of_illegal (h : RegField.legal r1 = false) (f : RegIndex → Except ErrorKind β) :
    (fieldIndex r1 >>= f) = .error .illegalCommand := by
  rw [fieldIndex_of_illegal h]
  rfl

theorem fieldIndex_bind_two_of_illegal (h : (RegField.legal r1 && RegField.legal r2) = false)
    (f : RegIndex → RegIndex → Except ErrorKind β) :
    (fieldIndex r1 >>= fun a => fieldIndex r2 >>= f a) = .error .illegalCommand := by
  cases h1 : RegField.legal r1 with
  | false => exact fieldIndex_bind_of_illegal h1 _
  | true =>
    obtain ⟨a, rfl⟩ := exists_indexField h1
    rw [fieldIndex_indexField]
    exact fieldIndex_bind_of_illegal (by simpa [h1] using h) _

theorem fieldIndex_bind_three_of_illegal
    (h : (RegField.legal r1 && RegField.legal r2 && RegField.legal r3) = false)
    (f : RegIndex → RegIndex → RegIndex → Except ErrorKind β) :
    (fieldIndex r1 >>= fun a => fieldIndex r2 >>= fun b => fieldIndex r3 >>= f a b) = .error .illegalCommand := by
  cases h1 : RegField.legal r1 with
  | false => exact fieldIndex_bind_of_illegal h1 _
  | true =>
    obtain ⟨a, rfl⟩ := exists_indexField h1
    rw [fieldIndex_indexField]
    exact fieldIndex_bind_two_of_illegal (by simpa [h1] using h) _

theorem result_of_illFormed {i : Instr} (h : i.wellFormed = false) (s : State) :
    commandResult i s = .error .illegalCommand := by
  cases i with
  | modinv rd ra rm => exact fieldIndex_bind_three_of_illegal h _
  | padd pd ps1 ps2 => exact fieldIndex_bind_three_of_illegal h _
  | pdbl pd ps1 => exact fieldIndex_bind_two_of_illegal h _
  | smul pd ps1 rk => exact fieldIndex_bind_three_of_illegal h _
  | kdf ps1 => exact fieldIndex_bind_of_illegal h _
  | ldg pd => exact fieldIndex_bind_of_illegal h _

/-- Settles O40: the first field that names no register ends the evaluation. -/
theorem illFormedCommandRaisesIllegalCommand : Obligations.IllFormedCommandRaisesIllegalCommand := by
  unfold Obligations.IllFormedCommandRaisesIllegalCommand
  intro i s h
  rw [exec_eq, result_of_illFormed h]
  rfl

/-! The two ends of a command. -/

/-- Settles O41: the completion of a result, or of an error kind with its code. -/
theorem completionEndsInDoneOrError : Obligations.CompletionEndsInDoneOrError := by
  unfold Obligations.CompletionEndsInDoneOrError
  intro s hc
  obtain ⟨r, h⟩ := step_of_completing hc
  refine ⟨_, h, ?_⟩
  cases r with
  | ok r => exact .inl ⟨s.popTurn.complete_ok_status r, by simp [State.complete_ok], State.complete_cmd _ _⟩
  | error e =>
    obtain ⟨hpos, hle⟩ := e.code_range
    exact .inr ⟨e.code, hpos, hle, s.popTurn.takeError_eq e⟩

/-- A command that starts with `ERR` = 0 and ends with `ERR` = 1 has evaluated to an error (R124). -/
theorem result_error_of_err {i : Instr} {s t : State} (h0 : s.status.err = false) (h : exec i s = .next t)
    (h1 : t.status.err = true) : ∃ e, commandResult i s = .error e ∧ t = s.takeError e := by
  rw [exec_eq] at h
  cases h
  cases hr : commandResult i s with
  | ok r => simp [hr, State.complete_ok_status, h0] at h1
  | error e => exact ⟨e, rfl, rfl⟩

/-- Settles O43: the error entry keeps the data registers, and on the same data registers the command evaluates to the same
error. -/
theorem failedCommandFailsAgain : Obligations.FailedCommandFailsAgain := by
  unfold Obligations.FailedCommandFailsAgain
  intro i s t h0 h h1
  obtain ⟨e, hr, rfl⟩ := result_error_of_err h0 h h1
  have hsame : ((s.takeError e).clearError.accept s.cmd).sameData s := ⟨rfl, rfl, rfl, rfl⟩
  refine ⟨⟨rfl, rfl, rfl, rfl⟩, rfl, _, exec_eq _ _, ?_⟩
  rw [result_congr hsame, hr]
  exact ⟨⟨rfl, rfl, rfl, rfl⟩, rfl, rfl, rfl, rfl, rfl⟩

end Sys2Proof.Machine
end

section
/-! PROOFS. The frames of the commands (10_state.md R21, R22, R24; 20_memory.md R50): what each leaves unchanged, register by
register and through the window. -/

namespace Sys2Proof.Machine

variable {s t : State} {i : Instr}

/-- The two ends of a command, by what it evaluates to (R50, R124). -/
theorem exec_cases (h : exec i s = .next t) :
    (∃ r, commandResult i s = .ok r ∧ t = s.complete (.ok r)) ∨ ∃ e, commandResult i s = .error e ∧ t = s.takeError e := by
  rw [exec_eq] at h
  cases h
  cases commandResult i s with
  | ok r => exact .inl ⟨r, rfl, rfl⟩
  | error e => exact .inr ⟨e, rfl, rfl⟩

/-- What no command writes, and how every command ends: with `DONE` and nothing recorded, or with the error entry. -/
theorem exec_frame (h : exec i s = .next t) :
    t.cmd = s.cmd ∧ t.env = s.env ∧ t.status.ovr = s.status.ovr ∧
    ((t.errcmd = s.errcmd ∧ t.status = { s.status with busy := false, done := true }) ∨
      ∃ e : ErrorKind, t = s.afterError e.code) := by
  rcases exec_cases h with ⟨r, -, rfl⟩ | ⟨e, -, rfl⟩
  · have hst := s.complete_ok_status r
    exact ⟨s.complete_cmd _, s.complete_env _, by rw [hst], .inl ⟨by simp [State.complete_ok], hst⟩⟩
  · exact ⟨rfl, rfl, rfl, .inr ⟨e, s.takeError_eq e⟩⟩

/-- The registers of the window that a result is written to. -/
def Result.regs : Result → List WindowReg
  | .intReg d _ => [.x d]
  | .pointReg d _ => [.ptTag d, .ptX d, .ptY d]
  | .keyMaterial _ _ => keyRegs

/-- A write of one of four registers leaves the others. -/
theorem getElem_set_of_ne {α : Type} (v : Vector α 4) (a : α) {i j : RegIndex} (h : j ≠ i) :
    (v.set i.val a)[j.val] = v[j.val] :=
  Vector.getElem_set_ne i.isLt j.isLt fun hij => h (Fin.ext hij.symm)

/-- A result changes no register of the window but its own. -/
theorem State.readReg_writeResult (s : State) {r : Result} {q : WindowReg} (hq : q ∉ r.regs) :
    (s.writeResult r).readReg q = s.readReg q := by
  cases r with
  | intReg d v =>
    cases q with
    | x j =>
      have hj : d ≠ j := by rintro rfl; simp [Result.regs] at hq
      exact (s.readX_writeX d j v).trans (if_neg hj)
    | _ => rfl
  | pointReg d Q =>
    have keeps : ∀ j, d ≠ j → (s.writePt d Q).readPtReg j = s.readPtReg j := fun j hj =>
      (s.readPtReg_writePt d j Q).trans (if_neg hj)
    cases q with
    | ptTag j => exact congrArg (fun p => tagWord p.inf) (keeps j (by rintro rfl; simp [Result.regs] at hq))
    | ptX j => exact congrArg PointReg.x (keeps j (by rintro rfl; simp [Result.regs] at hq))
    | ptY j => exact congrArg PointReg.y (keeps j (by rintro rfl; simp [Result.regs] at hq))
    | _ => rfl
  | keyMaterial iv key =>
    have listed : ∀ j, .iv j ∈ keyRegs ∧ .key j ∈ keyRegs := by decide
    cases q with
    | iv j => exact absurd (listed j).1 hq
    | key j => exact absurd (listed j).2 hq
    | _ => rfl

/-- The host sees a change at STATUS, ERRCMD and the registers of the result only. -/
theorem exec_readReg (h : exec i s = .next t) {q : WindowReg} (hstatus : q ≠ .status) (herrcmd : q ≠ .errcmd)
    (hregs : ∀ r, commandResult i s = .ok r → q ∉ r.regs) : t.readReg q = s.readReg q := by
  rcases exec_cases h with ⟨r, hr, rfl⟩ | ⟨e, -, rfl⟩
  · have hsucceed : (s.complete (.ok r)).readReg q = (s.writeResult r).readReg q := by
      cases q with
      | status => exact absurd rfl hstatus
      | _ => rfl
    exact hsucceed.trans (s.readReg_writeResult (hregs r hr))
  · cases q with
    | status => exact absurd rfl hstatus
    | errcmd => exact absurd rfl herrcmd
    | _ => rfl

/-- An access is answered alike by two states that agree on the register at its offset. -/
theorem memRead_congr {addr size : Nat} (h : ∀ q : WindowReg, q.offset = addr → t.readReg q = s.readReg q) :
    t.memRead addr size = s.memRead addr size := by
  unfold State.memRead
  cases hd : decodeAccess addr size with
  | none => rfl
  | some q =>
    obtain ⟨rfl, -⟩ := decodeAccess_eq_some hd
    exact congrArg BusResponse.data (h q rfl)

/-- The host reads as before at every offset but STATUS's, ERRCMD's and those of the result. -/
theorem exec_memRead (h : exec i s = .next t) {addr : Nat} (size : Nat) (hstatus : addr ≠ 0x00) (herrcmd : addr ≠ 0x08)
    (hregs : ∀ r, commandResult i s = .ok r → addr ∉ r.regs.map WindowReg.offset) :
    t.memRead addr size = s.memRead addr size := by
  refine memRead_congr ?_
  rintro q rfl
  refine exec_readReg h ?_ ?_ fun r hr hq => hregs r hr (List.mem_map_of_mem hq)
  · rintro rfl
    exact hstatus rfl
  · rintro rfl
    exact herrcmd rfl

/-! What each command's result is. -/

theorem result_modinv {d a m : RegIndex} {r : Result}
    (h : commandResult (.modinv (indexField d) (indexField a) (indexField m)) s = .ok r) : ∃ v, r = .intReg d v := by
  obtain ⟨d', v, hd, rfl⟩ := modinvResult_ok h
  rw [fieldIndex_indexField] at hd
  cases hd
  exact ⟨v, rfl⟩

/-- The commands that write the point register `d`: PADD, PDBL, SMUL and LDG. -/
theorem result_point {d a b : RegIndex} {r : Result}
    (hi : i ∈ [Instr.padd (indexField d) (indexField a) (indexField b), Instr.pdbl (indexField d) (indexField a),
      Instr.smul (indexField d) (indexField a) (indexField b), Instr.ldg (indexField d)])
    (h : commandResult i s = .ok r) : ∃ Q, r = .pointReg d Q := by
  have dest : ∀ {f : RegField}, f = indexField d → (∃ d' Q, fieldIndex f = .ok d' ∧ r = .pointReg d' Q) →
      ∃ Q, r = .pointReg d Q := by
    rintro _ rfl ⟨d', Q, hd, rfl⟩
    rw [fieldIndex_indexField] at hd
    cases hd
    exact ⟨Q, rfl⟩
  simp only [List.mem_cons, List.not_mem_nil, or_false] at hi
  rcases hi with rfl | rfl | rfl | rfl
  · exact dest rfl (paddResult_ok h)
  · exact dest rfl (pdblResult_ok h)
  · exact dest rfl (smulResult_ok h)
  · exact dest rfl (ldgResult_ok h)

/-- Settles O44: the result is for `x[rd]`, and the error entry is for STATUS and ERRCMD. -/
theorem integerCommandFrame : Obligations.IntegerCommandFrame := by
  unfold Obligations.IntegerCommandFrame
  intro s t d a m h
  obtain ⟨hcmd, henv, hovr, hend⟩ := exec_frame h
  have hmem : ∀ addr size : Nat, addr ≠ 0x00 → addr ≠ 0x08 → addr ≠ 0x40 + 4 * d.val →
      t.memRead addr size = s.memRead addr size := by
    intro addr size hstatus herrcmd hx
    refine exec_memRead h size hstatus herrcmd fun r hr => ?_
    obtain ⟨v, rfl⟩ := result_modinv hr
    simpa [Result.regs, WindowReg.offset] using hx
  rcases exec_cases h with ⟨r, hr, rfl⟩ | ⟨e, -, rfl⟩
  · obtain ⟨v, rfl⟩ := result_modinv hr
    exact ⟨fun _ => getElem_set_of_ne _ _, rfl, rfl, rfl, hcmd, henv, hovr, hend, hmem⟩
  · exact ⟨fun _ _ => rfl, rfl, rfl, rfl, hcmd, henv, hovr, hend, hmem⟩

/-- Settles O45: the result is for the three parts of `pt[pd]`, and the error entry is for STATUS and ERRCMD. -/
theorem pointCommandFrame : Obligations.PointCommandFrame := by
  unfold Obligations.PointCommandFrame
  intro s t d a b i hi h
  obtain ⟨hcmd, henv, hovr, hend⟩ := exec_frame h
  have hmem : ∀ addr size : Nat, addr ≠ 0x00 → addr ≠ 0x08 → addr ≠ 0x60 + 16 * d.val → addr ≠ 0x64 + 16 * d.val →
      addr ≠ 0x68 + 16 * d.val → t.memRead addr size = s.memRead addr size := by
    intro addr size hstatus herrcmd htag hx hy
    refine exec_memRead h size hstatus herrcmd fun r hr => ?_
    obtain ⟨Q, rfl⟩ := result_point hi hr
    simpa [Result.regs, WindowReg.offset] using ⟨htag, hx, hy⟩
  rcases exec_cases h with ⟨r, hr, rfl⟩ | ⟨e, -, rfl⟩
  · obtain ⟨Q, rfl⟩ := result_point hi hr
    exact ⟨rfl, fun _ => getElem_set_of_ne _ _, rfl, rfl, hcmd, henv, hovr, hend, hmem⟩
  · exact ⟨rfl, fun _ _ => rfl, rfl, rfl, hcmd, henv, hovr, hend, hmem⟩

/-- Settles O46: the result is for IV and KEY, and the error entry is for STATUS and ERRCMD. -/
theorem kdfFrame : Obligations.KdfFrame := by
  unfold Obligations.KdfFrame
  intro s t a h
  obtain ⟨hcmd, henv, hovr, hend⟩ := exec_frame h
  have hmem : ∀ addr size : Nat, addr ≠ 0x00 → addr ≠ 0x08 → addr < 0xA0 ∨ 0xBC < addr →
      t.memRead addr size = s.memRead addr size := by
    intro addr size hstatus herrcmd hout
    refine exec_memRead h size hstatus herrcmd fun r hr => ?_
    obtain ⟨iv, key, rfl⟩ := kdfResult_ok hr
    simp [Result.regs, keyRegs, WindowReg.offset]
    omega
  rcases exec_cases h with ⟨r, hr, rfl⟩ | ⟨e, -, rfl⟩
  · obtain ⟨iv, key, rfl⟩ := kdfResult_ok hr
    exact ⟨rfl, rfl, hcmd, henv, hovr, hend, hmem⟩
  · exact ⟨rfl, rfl, hcmd, henv, hovr, hend, hmem⟩

/-- The kind of register a command's result is for: integer for MODINV, point for PADD, PDBL, SMUL and LDG, key for KDF. -/
theorem result_kind {r : Result} (h : commandResult i s = .ok r) :
    ((∃ d a m, i = .modinv d a m) ∧ ∃ d v, r = .intReg d v) ∨
    (((∃ d a b, i = .padd d a b) ∨ (∃ d a, i = .pdbl d a) ∨ (∃ d a k, i = .smul d a k) ∨ ∃ d, i = .ldg d) ∧
      ∃ d Q, r = .pointReg d Q) ∨
    ((∃ a, i = .kdf a) ∧ ∃ iv key, r = .keyMaterial iv key) := by
  cases i with
  | modinv rd ra rm =>
    obtain ⟨d, v, -, hr⟩ := modinvResult_ok h
    exact .inl ⟨⟨rd, ra, rm, rfl⟩, d, v, hr⟩
  | padd pd ps1 ps2 =>
    obtain ⟨d, Q, -, hr⟩ := paddResult_ok h
    exact .inr (.inl ⟨.inl ⟨pd, ps1, ps2, rfl⟩, d, Q, hr⟩)
  | pdbl pd ps1 =>
    obtain ⟨d, Q, -, hr⟩ := pdblResult_ok h
    exact .inr (.inl ⟨.inr (.inl ⟨pd, ps1, rfl⟩), d, Q, hr⟩)
  | smul pd ps1 rk =>
    obtain ⟨d, Q, -, hr⟩ := smulResult_ok h
    exact .inr (.inl ⟨.inr (.inr (.inl ⟨pd, ps1, rk, rfl⟩)), d, Q, hr⟩)
  | ldg pd =>
    obtain ⟨d, Q, -, hr⟩ := ldgResult_ok h
    exact .inr (.inl ⟨.inr (.inr (.inr ⟨pd, rfl⟩)), d, Q, hr⟩)
  | kdf ps1 => exact .inr (.inr ⟨⟨ps1, rfl⟩, kdfResult_ok h⟩)

/-- The engine's turn while a command runs is its completion (R50). -/
theorem step_eq_completion (hc : s.completing) : step s = s.popTurn.completion := by
  obtain ⟨ha, hb⟩ := hc
  simp [step, ha, State.turn, State.engineTurn, hb]

/-- The completion of a legal word is `exec` of its command (R50, R66). -/
theorem step_of_decode (hc : s.completing) (hd : decode s.cmd = .ok i) : step s = exec i s.popTurn := by
  simp [step_eq_completion hc, State.completion, hd]

/-- A step of the engine keeps the data registers, or it is the completion of a result of the command in CMD. -/
theorem engine_step_data (ha : s.nextAgent = .engine) (hs : step s = .next t) :
    t.sameData s ∨ ∃ i r, decode s.cmd = .ok i ∧ commandResult i s.popTurn = .ok r ∧ t = s.popTurn.complete (.ok r) := by
  cases hb : s.status.busy with
  | false =>
    cases hs.symm.trans (step_of_engine_of_idle ha hb)
    exact .inl ⟨rfl, rfl, rfl, rfl⟩
  | true =>
    cases hd : decode s.cmd with
    | error e =>
      cases hs.symm.trans (step_of_illegal_word ⟨ha, hb⟩ ⟨e, hd⟩)
      exact .inl ⟨rfl, rfl, rfl, rfl⟩
    | ok i =>
      rcases exec_cases ((step_of_decode ⟨ha, hb⟩ hd).symm.trans hs) with ⟨r, hr, rfl⟩ | ⟨e, -, rfl⟩
      · exact .inr ⟨i, r, rfl, hr, rfl⟩
      · exact .inl ⟨rfl, rfl, rfl, rfl⟩

/-- Settles O47: a change of a data register is a result, and a result's kind is its command's. -/
theorem eachRegisterFileHasItsCommands : Obligations.EachRegisterFileHasItsCommands := by
  unfold Obligations.EachRegisterFileHasItsCommands
  intro s t ha hs
  rcases engine_step_data ha hs with ⟨hx, hpt, hiv, hkey⟩ | ⟨i, r, hd, hr, rfl⟩
  · simp [hx, hpt, hiv, hkey]
  · have hdone : (s.popTurn.complete (.ok r)).status.done = true := by rw [State.complete_ok_status]
    rcases result_kind hr with ⟨⟨d, a, m, rfl⟩, d', v, rfl⟩ | ⟨hi, d', Q, rfl⟩ | ⟨⟨a, rfl⟩, iv, key, rfl⟩
    · exact ⟨fun _ => ⟨hdone, d, a, m, hd⟩, fun h => absurd rfl h, fun h => by rcases h with h | h <;> exact absurd rfl h⟩
    · refine ⟨fun h => absurd rfl h, fun _ => ⟨hdone, ?_⟩, fun h => by rcases h with h | h <;> exact absurd rfl h⟩
      rcases hi with ⟨d, a, b, rfl⟩ | ⟨d, a, rfl⟩ | ⟨d, a, k, rfl⟩ | ⟨d, rfl⟩
      · exact .inl ⟨d, a, b, hd⟩
      · exact .inr (.inl ⟨d, a, hd⟩)
      · exact .inr (.inr (.inl ⟨d, a, k, hd⟩))
      · exact .inr (.inr (.inr ⟨d, hd⟩))
    · exact ⟨fun h => absurd rfl h, fun h => absurd rfl h, fun _ => ⟨hdone, a, hd⟩⟩

/-! The step by agent. -/

/-- Settles O6: the completion of a legal word. -/
theorem stepRunsDecodedCommand : Obligations.StepRunsDecodedCommand := by
  unfold Obligations.StepRunsDecodedCommand
  exact fun s i => step_of_decode

/-- Settles O7: the turns of the idle engine, the host and the reset input, and the agent of each list of turns. -/
theorem stepOfTheOtherAgents : Obligations.StepOfTheOtherAgents := by
  unfold Obligations.StepOfTheOtherAgents
  refine fun s => ⟨step_of_engine_of_idle, step_of_host, step_of_reset, fun h => ?_, fun a ts h => ?_⟩
  · simp [State.nextAgent, h]
  · simp [State.nextAgent, h]

/-- Settles O10: the next step of each state is evaluated. -/
theorem commandsOnTheResetState : Obligations.CommandsOnTheResetState := by
  unfold Obligations.CommandsOnTheResetState
  exact ⟨⟨_, rfl, by decide⟩, ⟨_, rfl, by decide⟩, ⟨_, rfl, by decide⟩, ⟨_, rfl, by decide⟩, ⟨_, rfl, by decide⟩⟩

end Sys2Proof.Machine
end

section
/-! PROOFS. The host's polls (30_encoding.md R68; 42_scalar_mult.md R106), and a running command among the turns of the host
(20_memory.md R46, R50; 70_reset_and_hazards.md R143, R148). -/

namespace Sys2Proof.Machine

variable {s u : State}

/-! WAIT. -/

@[simp] theorem busyBit_word (st : Status) : busyBit st.word = st.busy := st.word_flags.1
@[simp] theorem errBit_word (st : Status) : errBit st.word = st.err := st.word_flags.2.2.1

/-- One poll of WAIT reads STATUS and decides how the program goes on (R68). -/
theorem State.hostTurn_wait {b : Bool} {rest : List HostOp} (h : s.env.program = .wait b :: rest) :
    s.hostTurn = { s with env := { program := afterPoll s.status.word b rest, turns := s.env.turns,
                                   response := some (.data s.status.word) } } := by
  have hread : s.memRead 0x00 4 = .data s.status.word := s.memRead_offset .status
  simp [State.hostTurn, h, State.access, State.effect, State.answer, State.setProgram, State.readReg, hread]

/-- Settles O53: a poll's value has the `BUSY` of STATUS. -/
theorem waitPollsUntilIdle : Obligations.WaitPollsUntilIdle := by
  unfold Obligations.WaitPollsUntilIdle
  intro s rest ha hp
  refine ⟨_, step_of_host ha, ?_⟩
  rw [State.hostTurn_wait (s := s.popTurn) hp]
  refine ⟨⟨⟨rfl, rfl, rfl, rfl⟩, rfl, rfl, rfl⟩, rfl, fun hb => ?_, fun hb => ?_⟩
  · simp [afterPoll, hb, pseudoWAIT]
  · simp [afterPoll, hb]

/-- Settles O56: the last poll's value has the `ERR` of STATUS. -/
theorem sequenceEndsOnAnError : Obligations.SequenceEndsOnAnError := by
  unfold Obligations.SequenceEndsOnAnError
  intro s rest ha hp hb
  refine ⟨_, step_of_host ha, ?_⟩
  rw [State.hostTurn_wait (s := s.popTurn) hp]
  refine ⟨⟨⟨rfl, rfl, rfl, rfl⟩, rfl, rfl, rfl⟩, fun he => ?_, fun he => ?_⟩ <;> simp [afterPoll, hb, he]

/-! States that differ in `OVR` and in what stands outside the hardware only. -/

/-- The two states hold the same registers but for the flag `OVR`. -/
def State.sameButOvr (s u : State) : Prop :=
  s.sameData u ∧ s.cmd = u.cmd ∧ s.errcmd = u.errcmd ∧ ∃ o, s.status = { u.status with ovr := o }

theorem State.sameButOvr.trans {t : State} (h : s.sameButOvr u) (h' : u.sameButOvr t) : s.sameButOvr t := by
  obtain ⟨⟨hx, hpt, hiv, hkey⟩, hcmd, herr, o, hst⟩ := h
  obtain ⟨⟨hx', hpt', hiv', hkey'⟩, hcmd', herr', o', hst'⟩ := h'
  exact ⟨⟨hx.trans hx', hpt.trans hpt', hiv.trans hiv', hkey.trans hkey'⟩, hcmd.trans hcmd', herr.trans herr', o,
    by rw [hst, hst']⟩

/-- A host turn that meets a running command changes no register but `OVR` (R45, R46). -/
theorem State.hostTurn_sameButOvr (hb : s.status.busy = true) : s.hostTurn.sameButOvr s := by
  refine ⟨State.hostTurn_sameData_of_busy hb, State.hostTurn_cmd_of_busy hb, s.hostTurn_errcmd, s.hostTurn.status.ovr, ?_⟩
  obtain ⟨e, -, ht | ⟨r, v, -, -, ht⟩⟩ := s.hostTurn_cases
  · rw [ht]
  · rcases s.writeReg_of_busy r v hb with hw | hw | hw <;> rw [ht, hw]
    · rfl
    · simp [Status.hostWrite, hb]

/-- Settles O50: the turn changes no register but `OVR`. -/
theorem busyProtectsTheRegisters : Obligations.BusyProtectsTheRegisters := by
  unfold Obligations.BusyProtectsTheRegisters
  intro s t hb ha hs
  cases hs.symm.trans (step_of_host ha)
  obtain ⟨hdata, hcmd, herrcmd, o, hst⟩ := State.hostTurn_sameButOvr (s := s.popTurn) hb
  exact ⟨hdata, hcmd, herrcmd, by rw [hst]; exact hb, by rw [hst]; rfl, by rw [hst]; rfl, by rw [hst]; rfl⟩

/-- A completion reads neither `OVR` nor the outside, and keeps both (R30, R50). -/
theorem State.sameButOvr.complete (h : s.sameButOvr u) (r : Except ErrorKind Result) :
    (s.complete r).sameButOvr (u.complete r) := by
  obtain ⟨hdata, hcmd, herrcmd, o, hst⟩ := h
  refine ⟨hdata.complete r, by simpa using hcmd, ?_, o, ?_⟩
  · cases r with
    | ok r => simpa [State.complete_ok] using herrcmd
    | error e => exact hcmd
  · cases r with
    | ok r => rw [State.complete_ok_status, State.complete_ok_status, hst]
    | error e => rw [State.complete_error, State.complete_error, State.takeError_status, hst]; rfl

theorem State.sameButOvr.completion (h : s.sameButOvr u) :
    ∃ t v, s.completion = .next t ∧ u.completion = .next v ∧ t.sameButOvr v := by
  obtain ⟨hdata, hcmd, -⟩ := id h
  unfold State.completion
  rw [hcmd]
  cases decode u.cmd with
  | ok i =>
    refine ⟨_, _, exec_eq i s, exec_eq i u, ?_⟩
    rw [result_congr hdata]
    exact h.complete _
  | error e => exact ⟨_, _, rfl, rfl, h.complete (.error .illegalCommand)⟩

/-- No completion takes a turn from the list. -/
theorem completion_env {t : State} (h : s.completion = .next t) : t.env = s.env := by
  rcases s.completion_cases with ⟨i, r, -, -, hc⟩ | ⟨-, hc⟩ <;> cases h.symm.trans hc
  · exact s.complete_env r
  · rfl

/-- A host turn takes no other turn from the list. -/
theorem State.hostTurn_turns (s : State) : s.hostTurn.env.turns = s.env.turns := by
  obtain ⟨e, he, ht | ⟨r, v, -, -, ht⟩⟩ := s.hostTurn_cases <;> rw [ht] <;> exact he

/-- A step of the host while a command runs changes no register but `OVR`, and the command still runs (R46, R143). -/
theorem step_of_host_of_busy {ts : List Agent} (hb : s.status.busy = true) (hts : s.env.turns = .host :: ts) :
    ∃ t, step s = .next t ∧ t.sameButOvr s ∧ t.status.busy = true ∧ t.env.turns = ts := by
  refine ⟨_, step_of_host (by simp [State.nextAgent, hts]), State.hostTurn_sameButOvr (s := s.popTurn) hb,
    State.hostTurn_busy_of_busy (s := s.popTurn) hb, ?_⟩
  rw [State.hostTurn_turns]
  simp [hts]

/-- The induction over the host's turns: they change `OVR` only, so the completion after them is that of the first state. -/
theorem run_hostTurns_then_completion (n : Nat) {ts : List Agent} : ∀ {s : State}, s.status.busy = true →
    s.env.turns = List.replicate n .host ++ .engine :: ts →
    ∃ t u, Host.Core.run Sys2Proof.core (n + 1) s = .next t ∧ s.completion = .next u ∧ t.sameButOvr u ∧
      t.env.turns = ts := by
  induction n with
  | zero =>
    intro s hb hts
    have hpop : s.popTurn.sameButOvr s := ⟨⟨rfl, rfl, rfl, rfl⟩, rfl, rfl, s.status.ovr, rfl⟩
    obtain ⟨t, u, ht, hu, htu⟩ := hpop.completion
    refine ⟨t, u, run_succ 0 ((step_eq_completion ⟨by simp [State.nextAgent, hts], hb⟩).trans ht), hu, htu, ?_⟩
    rw [completion_env ht]
    simp [hts]
  | succ n ih =>
    intro s hb hts
    obtain ⟨s1, hstep, hsame, hb1, hts1⟩ := step_of_host_of_busy hb hts
    obtain ⟨t, u1, hrun, hu1, htu1, hts'⟩ := ih hb1 hts1
    obtain ⟨v, u, hv, hu, hvu⟩ := hsame.completion
    cases hu1.symm.trans hv
    exact ⟨t, u, (run_succ (n + 1) hstep).trans hrun, hu, htu1.trans hvu, hts'⟩

/-- Settles O51: the completion after the host's turns is that of the accepted command, up to `OVR`. -/
theorem completionDelayIsInvisible : Obligations.CompletionDelayIsInvisible := by
  unfold Obligations.CompletionDelayIsInvisible
  intro s n ts hb hts
  obtain ⟨t, u, hrun, hu, ⟨hdata, hcmd, herrcmd, o, hst⟩, hts'⟩ := run_hostTurns_then_completion n hb hts
  exact ⟨t, u, hrun, hu, hdata, hcmd, herrcmd, by rw [hst], by rw [hst], by rw [hst], by rw [hst], hts'⟩

/-! Progress (R148). -/

/-- Every completion ends with `DONE` or `ERR` (R50, R124). -/
theorem State.complete_done_or_err (s : State) (r : Except ErrorKind Result) :
    (s.complete r).status.done = true ∨ (s.complete r).status.err = true := by
  cases r with
  | ok r => exact .inl (by rw [State.complete_ok_status])
  | error e => exact .inr rfl

/-- The induction over the listed turns: a turn of the host leaves the command running, and one of the engine completes it;
so does the step after the last of them. -/
theorem exists_completion (ts : List Agent) : ∀ {s : State}, s.status.busy = true → s.env.turns = ts → Agent.reset ∉ ts →
    ∃ (k : Nat) (t : State), k ≤ ts.length + 1 ∧ Host.Core.run Sys2Proof.core k s = .next t ∧
      t.status.busy = false ∧ t.cmd = s.cmd ∧ (t.status.done = true ∨ t.status.err = true) := by
  have now : ∀ {s : State}, s.completing → ∃ t, Host.Core.run Sys2Proof.core 1 s = .next t ∧ t.status.busy = false ∧
      t.cmd = s.cmd ∧ (t.status.done = true ∨ t.status.err = true) := by
    intro s hc
    obtain ⟨r, hstep⟩ := step_of_completing hc
    exact ⟨_, run_succ 0 hstep, State.complete_busy _ r, State.complete_cmd _ r, State.complete_done_or_err _ r⟩
  induction ts with
  | nil =>
    intro s hb hts _
    obtain ⟨t, ht⟩ := now ⟨by simp [State.nextAgent, hts, hb], hb⟩
    exact ⟨1, t, le_rfl, ht⟩
  | cons a ts ih =>
    intro s hb hts hreset
    rw [List.mem_cons, not_or] at hreset
    obtain ⟨ha, hreset⟩ := hreset
    cases a with
    | reset => exact absurd rfl ha
    | engine =>
      obtain ⟨t, ht⟩ := now ⟨by simp [State.nextAgent, hts], hb⟩
      exact ⟨1, t, by simp, ht⟩
    | host =>
      obtain ⟨s1, hstep, ⟨-, hcmd, -⟩, hb1, hts1⟩ := step_of_host_of_busy hb hts
      obtain ⟨k, t, hk, hrun, hbusy, hcmd', hend⟩ := ih hb1 hts1 hreset
      exact ⟨k + 1, t, Nat.succ_le_succ hk, (run_succ k hstep).trans hrun, hbusy, hcmd'.trans hcmd, hend⟩

/-- Settles O52: the induction over the listed turns. -/
theorem everyAcceptedCommandCompletes : Obligations.EveryAcceptedCommandCompletes := by
  unfold Obligations.EveryAcceptedCommandCompletes
  exact fun s hb hreset => exists_completion s.env.turns hb rfl hreset

end Sys2Proof.Machine
end

section
/-! PROOFS. The end of the Euclidean loop (40_modinv.md R82), and what modInverse answers by its outcome (R83). -/

namespace Sys2Proof.Machine

/-- With as many passes as the second remainder, or more, the loop ends because its condition is false. -/
theorem euclidLoop_r1_eq_zero (n : Nat) : ∀ {e : EuclidState}, e.r1 ≤ n → (euclidLoop n e).r1 = 0 := by
  induction n with
  | zero => exact fun h => Nat.le_zero.1 h
  | succ n ih =>
    intro e h
    by_cases he : e.r1 = 0
    · rw [euclidLoop_done _ he, he]
    · have hlt := euclidBody_r1_lt he
      rw [euclidLoop_pass n he]
      exact ih (by omega)

/-- Allowed passes add up. -/
theorem euclidLoop_add (m : Nat) (n : Nat) : ∀ e : EuclidState, euclidLoop (m + n) e = euclidLoop n (euclidLoop m e) := by
  induction m with
  | zero => exact fun e => by rw [Nat.zero_add]; rfl
  | succ m ih =>
    intro e
    by_cases he : e.r1 = 0
    · rw [euclidLoop_done _ he, euclidLoop_done _ he, euclidLoop_done _ he]
    · rw [Nat.add_right_comm, euclidLoop_pass _ he, euclidLoop_pass _ he, ih]

/-- Once the loop has ended, more allowed passes change nothing. -/
theorem euclidLoop_of_le {n : Nat} {e : EuclidState} (h : e.r1 ≤ n) : euclidLoop n e = euclidLoop e.r1 e := by
  obtain ⟨k, rfl⟩ := Nat.exists_eq_add_of_le h
  rw [euclidLoop_add, euclidLoop_done _ (euclidLoop_r1_eq_zero _ le_rfl)]

/-- Settles O20: the congruences are kept by every pass, and the second remainder counts the passes. -/
theorem euclidLoopInvariantAndEnd : Obligations.EuclidLoopInvariantAndEnd := by
  unfold Obligations.EuclidLoopInvariantAndEnd
  intro a p hp
  obtain ⟨h0, h1⟩ := euclidStart_congr a hp
  refine ⟨fun n => euclidLoop_congr n h0 h1, fun n hn => ⟨euclidLoop_r1_eq_zero n hn, ?_, euclidLoop_of_le hn⟩⟩
  rw [euclidLoop_r0_eq_gcd n hn, euclidStart_gcd a hp]

/-- Everything modInverse can answer (R83). -/
theorem modInverse_cases (a : Int) (p : Nat) :
    modInverse a p = .error .noInverseExists ∨ ∃ v, modInverse a p = .ok v ∧ isInverse v a p := by
  by_cases hg : p = 0 ∨ Int.gcd a p ≠ 1
  · exact .inl (modInverse_of_not_coprime hg)
  · obtain ⟨hp, hg⟩ := not_or.1 hg
    exact .inr (modInverse_of_coprime (Nat.pos_of_ne_zero hp) (not_not.1 hg))

theorem eq_noInverseExists_of_modInverse {a : Int} {p : Nat} {e : ErrorKind} (h : modInverse a p = .error e) :
    e = .noInverseExists := by
  rcases modInverse_cases a p with h' | ⟨v, h', -⟩ <;> cases h.symm.trans h'
  rfl

theorem isInverse_of_modInverse {a v : Int} {p : Nat} (h : modInverse a p = .ok v) : isInverse v a p := by
  rcases modInverse_cases a p with h' | ⟨u, h', hinv⟩ <;> cases h.symm.trans h'
  exact hinv

end Sys2Proof.Machine
end

section
/-! PROOFS. The functions add and double (41_point_algebra.md R92 to R94, R98): their failure, symmetry, and the opposite
point. -/

namespace Sys2Proof.Machine

variable {c : CurveParams} {x y x1 y1 x2 y2 : Int} {e : ErrorKind}

/-! The only failure is that of modInverse. -/

theorem bind_ok_error {α β : Type} {m : Except ErrorKind α} {f : α → β} (h : (m >>= fun a => pure (f a)) = .error e) :
    m = .error e := by
  cases m with
  | ok a => cases h
  | error e' =>
    cases h
    rfl

theorem eq_noInverseExists_of_double {Q : Point} (h : double c Q = .error e) : e = .noInverseExists := by
  cases Q with
  | identity => cases h
  | affine x y =>
    rw [double] at h
    split at h
    · cases h
    · exact eq_noInverseExists_of_modInverse (bind_ok_error h)

theorem eq_noInverseExists_of_add {Q1 Q2 : Point} (h : add c Q1 Q2 = .error e) : e = .noInverseExists := by
  match Q1, Q2 with
  | .identity, Q2 => cases h
  | .affine x1 y1, .identity => cases h
  | .affine x1 y1, .affine x2 y2 =>
    rw [add] at h
    split_ifs at h
    · exact eq_noInverseExists_of_double h
    · exact eq_noInverseExists_of_modInverse (bind_ok_error h)

/-- Settles O26: over an odd prime no inverse is missing; and no other failure is written in the two functions. -/
theorem addAndDoubleFailOnlyWithoutInverse : Obligations.AddAndDoubleFailOnlyWithoutInverse := by
  unfold Obligations.AddAndDoubleFailOnlyWithoutInverse
  exact ⟨fun c Q1 Q2 hP h2 h1 h2' => ⟨add_inRange hP h2 h1 h2', double_inRange hP h2 h1⟩,
    fun c Q1 Q2 e => ⟨eq_noInverseExists_of_add, eq_noInverseExists_of_double⟩⟩

/-- Settles O27: the opposite of `y` is another ordinate, unless `y` = 0; twice an ordinate below an odd `P` is not `P`. -/
theorem addNeutralAndOpposite : Obligations.AddNeutralAndOpposite := by
  unfold Obligations.AddNeutralAndOpposite
  refine fun c Q => ⟨add_identity_right c Q, add_identity_left c Q, ?_⟩
  rintro x y hodd rfl hin
  obtain ⟨-, hy0, hyP⟩ := Point.inRange_affine_iff.1 hin
  rcases hy0.eq_or_lt with rfl | hy
  · rw [emod, neg_zero, Int.zero_emod, add_self, double_y_zero]
  · have hopp : emod (-y) c.P = c.P - y := by
      rw [emod, ← Int.add_emod_right, Int.emod_eq_of_lt (by omega) (by omega)]
      omega
    exact add_same_x c x (by omega)

/-! Symmetry. -/

/-- `add` reduces the difference of the abscissas before it inverts it, which changes nothing (R93). -/
theorem add_of_x_ne (hx : x1 ≠ x2) : add c (.affine x1 y1) (.affine x2 y2) =
    (modInverse (x2 - x1) c.P).map fun i => chordPoint c (emod ((y2 - y1) * i) c.P) x1 y1 x2 := by
  have hred : modInverse (emod (x2 - x1) c.P) c.P = modInverse (x2 - x1) c.P := modInverse_eq_of_emod_eq (Int.emod_emod _ _)
  rw [add, if_neg (fun h => hx h.1), if_neg hx, hred]
  cases modInverse (x2 - x1) c.P <;> rfl

/-- The slope of the chord is the same from either end: the inverses of opposite differences are opposite. -/
theorem slope_symm {i j : Int} {p : Nat} (hi : isInverse i (x2 - x1) p) (hj : isInverse j (x1 - x2) p) :
    (y2 - y1) * i ≡ (y1 - y2) * j [ZMOD p] := by
  obtain ⟨-, -, hi⟩ := hi
  obtain ⟨-, -, hj⟩ := hj
  calc (y2 - y1) * i = (y2 - y1) * i * 1 := (mul_one _).symm
    _ ≡ (y2 - y1) * i * (j * (x1 - x2)) [ZMOD p] := Int.ModEq.mul_left _ (Int.ModEq.symm hj)
    _ = (y1 - y2) * j * (i * (x2 - x1)) := by ring
    _ ≡ (y1 - y2) * j * 1 [ZMOD p] := Int.ModEq.mul_left _ hi
    _ = (y1 - y2) * j := mul_one _

/-- A line through both points gives the same third point from either of them. -/
theorem chordPoint_symm {s : Int} (h : s * (x2 - x1) ≡ y2 - y1 [ZMOD c.P]) :
    chordPoint c s x1 y1 x2 = chordPoint c s x2 y2 x1 := by
  have hx : s * s - x1 - x2 = s * s - x2 - x1 := by ring
  have hy : ∀ x3 : Int, s * (x1 - x3) - y1 ≡ s * (x2 - x3) - y2 [ZMOD c.P] := fun x3 => by
    calc s * (x1 - x3) - y1 = s * (x2 - x3) - y1 - s * (x2 - x1) := by ring
      _ ≡ s * (x2 - x3) - y1 - (y2 - y1) [ZMOD c.P] := Int.ModEq.sub_left _ h
      _ = s * (x2 - x3) - y2 := by ring
  simp only [chordPoint, hx]
  exact congrArg _ (hy _)

/-- The chord from either end, for a modulus that need not be prime: both inverses exist or none does. -/
theorem add_comm_of_x_ne (hP : 1 ≤ c.P) (hx : x1 ≠ x2) :
    add c (.affine x1 y1) (.affine x2 y2) = add c (.affine x2 y2) (.affine x1 y1) := by
  have hgcd : Int.gcd (x1 - x2) c.P = Int.gcd (x2 - x1) c.P := by rw [← neg_sub, Int.neg_gcd]
  rw [add_of_x_ne hx, add_of_x_ne hx.symm]
  by_cases hg : Int.gcd (x2 - x1) c.P = 1
  · obtain ⟨i, hi, hinv⟩ := modInverse_of_coprime hP hg
    obtain ⟨j, hj, hinvj⟩ := modInverse_of_coprime hP (hgcd.trans hg)
    have hslope : emod ((y2 - y1) * i) c.P = emod ((y1 - y2) * j) c.P := slope_symm hinv hinvj
    have hline : emod ((y2 - y1) * i) c.P * (x2 - x1) ≡ y2 - y1 [ZMOD c.P] := by
      calc emod ((y2 - y1) * i) c.P * (x2 - x1) ≡ (y2 - y1) * i * (x2 - x1) [ZMOD c.P] := (Int.mod_modEq _ _).mul_right _
        _ = (y2 - y1) * (i * (x2 - x1)) := mul_assoc _ _ _
        _ ≡ (y2 - y1) * 1 [ZMOD c.P] := Int.ModEq.mul_left _ hinv.2.2
        _ = y2 - y1 := mul_one _
    rw [hi, hj]
    exact congrArg Except.ok ((chordPoint_symm hline).trans (by rw [hslope]))
  · rw [modInverse_of_not_coprime (.inr hg), modInverse_of_not_coprime (.inr (hgcd ▸ hg))]
    rfl

/-- Settles O25: the cases of `add` but the chord are symmetric as they stand. -/
theorem addIsSymmetric : Obligations.AddIsSymmetric := by
  unfold Obligations.AddIsSymmetric
  intro c Q1 Q2 hc _ _
  have hP : 1 ≤ c.P := by
    simp only [CurveParams.wellFormed, Bool.and_eq_true, decide_eq_true_eq] at hc
    omega
  match Q1, Q2 with
  | .identity, Q2 => rw [add_identity_left, add_identity_right]
  | .affine x1 y1, .identity => rfl
  | .affine x1 y1, .affine x2 y2 =>
    by_cases hx : x1 = x2
    · subst hx
      by_cases hy : y1 = y2
      · rw [hy]
      · rw [add_same_x c x1 hy, add_same_x c x1 (Ne.symm hy)]
    · exact add_comm_of_x_ne hP hx

end Sys2Proof.Machine
end

section
/-! PROOFS. The passes of scalarMultiply's loop, counted (42_scalar_mult.md R100, R102). -/

namespace Sys2Proof.Machine

variable {c : CurveParams} {Q R : Point} {e : ErrorKind}

/-- The loop does nothing once no bit is left. -/
theorem smulLoop_done (c : CurveParams) (j : Nat) {m : SmulState} (h : m.n = 0) : smulLoop c j m = .ok m := by
  cases j <;> simp [smulLoop, h]

/-- A pass that fails ends the loop with its failure. -/
theorem smulLoop_of_body_error {m : SmulState} (j : Nat) (hn : m.n ≠ 0) (h : smulBody c m = .error e) :
    smulLoop c (j + 1) m = .error e := by
  rw [smulLoop, if_neg hn, h]
  rfl

theorem smulBody_of_sum_error {m : SmulState} (h : smulSum c m = .error e) : smulBody c m = .error e := by
  rw [smulBody_eq, h]
  rfl

theorem smulBody_of_double_error {m : SmulState} (hR : smulSum c m = .ok R) (hQ : double c m.Q = .error e) :
    smulBody c m = .error e := by
  rw [smulBody_eq, hR, hQ]
  rfl

/-- The accumulation by the lowest bit, in the words of R100. -/
theorem smulSum_eq_ok {m : SmulState} {R' : Point} (hodd : m.n % 2 = 1 → add c m.R m.Q = .ok R')
    (heven : m.n % 2 = 0 → R' = m.R) : smulSum c m = .ok R' := by
  unfold smulSum
  split
  case isTrue h => exact hodd h
  case isFalse h => rw [heven (by omega)]

/-- A pass that does not fail halves what is left of the scalar. -/
theorem smulBody_n {m m' : SmulState} (h : smulBody c m = .ok m') : m'.n = m.n / 2 := by
  rw [smulBody_eq] at h
  cases hR : smulSum c m with
  | error e => rw [hR] at h; cases h
  | ok R =>
    cases hQ : double c m.Q with
    | error e => rw [hR, hQ] at h; cases h
    | ok Q => rw [hR, hQ] at h; cases h; rfl

theorem smulLoop_n (j : Nat) : ∀ {m m' : SmulState}, smulLoop c j m = .ok m' → m'.n = m.n / 2 ^ j := by
  induction j with
  | zero =>
    intro m m' h
    cases h
    simp
  | succ j ih =>
    intro m m' h
    by_cases hn : m.n = 0
    · rw [smulLoop_done c _ hn] at h
      cases h
      simp [hn]
    · cases hb : smulBody c m with
      | error e => rw [smulLoop_of_body_error j hn hb] at h; cases h
      | ok m1 =>
        rw [smulLoop_succ j hn hb] at h
        rw [ih h, smulBody_n hb, Nat.div_div_eq_div_mul, pow_succ']

/-- `bitlen(k)` is the least `n` with `k < 2^n` (R102). -/
theorem bitlen_le_iff {k j : Nat} : bitlen k ≤ j ↔ k < 2 ^ j := by
  unfold bitlen
  split
  case isTrue h => simp [h]
  case isFalse h => rw [Nat.succ_le_iff, Nat.log2_lt h]

/-- Allowed passes add up. -/
theorem smulLoop_add (i j : Nat) : ∀ m : SmulState, smulLoop c (i + j) m = smulLoop c i m >>= smulLoop c j := by
  induction i with
  | zero => exact fun m => by rw [Nat.zero_add]; rfl
  | succ i ih =>
    intro m
    by_cases hn : m.n = 0
    · rw [smulLoop_done c _ hn, smulLoop_done c _ hn]
      exact (smulLoop_done c j hn).symm
    · rw [Nat.add_right_comm]
      cases hb : smulBody c m with
      | ok m1 => rw [smulLoop_succ _ hn hb, smulLoop_succ _ hn hb, ih]
      | error e =>
        rw [smulLoop_of_body_error _ hn hb, smulLoop_of_body_error _ hn hb]
        rfl

/-- After `bitlen(k)` passes the loop has ended, so more allowed passes change nothing. -/
theorem smulLoop_of_bitlen_le {j : Nat} {m : SmulState} (h : bitlen m.n ≤ j) :
    smulLoop c j m = smulLoop c (bitlen m.n) m := by
  obtain ⟨k, rfl⟩ := Nat.exists_eq_add_of_le h
  rw [smulLoop_add]
  cases hm : smulLoop c (bitlen m.n) m with
  | error e => rfl
  | ok m' =>
    have hn : m'.n = 0 := by rw [smulLoop_n _ hm, Nat.div_eq_of_lt (bitlen_le_iff.1 le_rfl)]
    exact smulLoop_done c k hn

theorem scalarMultiply_neg (c : CurveParams) (Q : Point) {k : Int} (h : k < 0) :
    scalarMultiply c k Q = .error .invalidScalar :=
  if_pos h

theorem scalarMultiply_of_loop_error {k : Int} (hk : 0 ≤ k)
    (h : smulLoop c (bitlen k.toNat) { R := .identity, Q := Q, n := k.toNat } = .error e) :
    scalarMultiply c k Q = .error e := by
  rw [scalarMultiply, if_neg (not_lt.2 hk), h]
  rfl

/-- Settles O30: one pass by the outcomes of its two steps, and the passes by what each leaves of the scalar. -/
theorem scalarMultiplyStepCount : Obligations.ScalarMultiplyStepCount := by
  unfold Obligations.ScalarMultiplyStepCount
  refine ⟨fun c j R Q => smulLoop_done c j rfl, fun c j n R Q hn => ⟨fun R' Q' hodd heven hdbl => ?_, fun e hodd hadd => ?_,
    fun R' e hodd hdbl => ?_⟩, fun c k Q0 => ⟨scalarMultiply_neg c Q0, fun m => scalarMultiply_of_loop,
    fun e => scalarMultiply_of_loop_error⟩, fun c j k Q0 m => smulLoop_n j, fun j k => ?_,
    fun c j k Q0 => smulLoop_of_bitlen_le (m := ⟨.identity, Q0, k⟩), fun k hk => ?_⟩
  · exact smulLoop_succ j hn (smulBody_of_ok (smulSum_eq_ok hodd heven) hdbl)
  · exact smulLoop_of_body_error j hn (smulBody_of_sum_error ((if_pos hodd).trans hadd))
  · have hsum : smulSum c { R := R, Q := Q, n := n } = .ok (if n % 2 = 1 then R' else R) := by
      unfold smulSum
      split
      case isTrue h => exact hodd h
      case isFalse h => rfl
    exact smulLoop_of_body_error j hn (smulBody_of_double_error hsum hdbl)
  · rw [Nat.div_eq_zero_iff_lt (by positivity), bitlen_le_iff]
  · exact bitlen_le_iff.2 (Nat.lt_of_le_of_lt hk (by decide))

end Sys2Proof.Machine
end

section
/-! PROOFS. The statements about 43_kdf.md that follow from the command's: packing, the x-coordinate, the output's
alphabet. -/

namespace Sys2Proof.Machine

/-- Settles O36: packing loses no byte; the example is evaluated. -/
theorem bytesPackLittleEndian : Obligations.BytesPackLittleEndian := by
  unfold Obligations.BytesPackLittleEndian
  exact ⟨fun b i => packWords_byte b, by decide⟩

/-- Settles O38: the digest is that of the y-coordinate's decimal string. -/
theorem kdfIgnoresTheXCoordinate : Obligations.KdfIgnoresTheXCoordinate := by
  unfold Obligations.KdfIgnoresTheXCoordinate
  intro s u a b hs hu hsr hur hy
  have hkey := deriveSymmetricKey_point Config.hash hu
  rw [← hy] at hkey
  exact ⟨_, _, exec_kdf_of_deriveSymmetricKey hs hsr (deriveSymmetricKey_point Config.hash hs),
    exec_kdf_of_deriveSymmetricKey hu hur hkey, rfl, rfl⟩

/-- Every character that stands for a nibble is in the alphabet of R117. -/
theorem isHexChar_hexChar (v : BitVec 4) : isHexChar (hexChar v) := by
  revert v; decide

theorem isHexChar_hexdigest {n j : Nat} (d : Vector Byte n) (hj : j < 2 * n) : isHexChar (hexdigest d)[j] := by
  rw [hexdigest, Vector.getElem_ofFn]
  split <;> exact isHexChar_hexChar _

/-- Settles O39: each output byte is a character of the hex digest. -/
theorem kdfOutputAlphabet : Obligations.KdfOutputAlphabet := by
  unfold Obligations.KdfOutputAlphabet
  intro s a hi hr
  obtain ⟨-, ends⟩ := kdfCommand
  obtain ⟨-, -, succeeds⟩ := ends s a _ rfl
  obtain ⟨iv, key, hexec, hbytes⟩ := succeeds hi hr
  refine ⟨_, hexec, rfl, fun i => ?_⟩
  obtain ⟨hiv, hkey⟩ := hbytes i.val i.isLt
  rw [packedByte, packedByte, hiv, hkey]
  exact ⟨isHexChar_hexdigest _ _, isHexChar_hexdigest _ _⟩

end Sys2Proof.Machine
end

section
/-! PROOFS. The model's points as points of the library's Weierstrass curve over the integers modulo an odd prime
(41_point_algebra.md R90): `add` is the library's addition, so the sum of curve points is on the curve and, on a nonsingular
curve, `scalarMultiply` is the multiple of the group (42_scalar_mult.md R103). -/

namespace Sys2Proof

/-- The curve of R5, y^2 = x^3 + A*x + B, over the integers modulo `P`. -/
def CurveParams.weierstrass (c : CurveParams) : WeierstrassCurve.Affine (ZMod c.P) :=
  { a₁ := 0, a₂ := 0, a₃ := 0, a₄ := c.A, a₆ := c.B }

namespace Machine

variable {c : CurveParams} {x y x1 y1 x2 y2 : Int}

/-! Reduction modulo `P`. -/

@[simp] theorem cast_emod_P (a : Int) : ((a % (c.P : Int) : Int) : ZMod c.P) = a := ZMod.intCast_mod a c.P

/-- Reduced numbers are equal when they are equal modulo `P`. -/
theorem eq_of_cast_eq {a b : Int} (ha : 0 ≤ a ∧ a < c.P) (hb : 0 ≤ b ∧ b < c.P) (h : (a : ZMod c.P) = b) : a = b := by
  have hmod : a % c.P = b % c.P := (ZMod.intCast_eq_intCast_iff a b c.P).1 h
  rwa [Int.emod_eq_of_lt ha.1 ha.2, Int.emod_eq_of_lt hb.1 hb.2] at hmod

/-- An inverse in the sense of R83 is the inverse modulo `P`. -/
theorem cast_mul_of_isInverse {i v : Int} (h : isInverse i v c.P) : (i : ZMod c.P) * v = 1 := by
  obtain ⟨-, -, h⟩ := h
  exact_mod_cast (ZMod.intCast_eq_intCast_iff (i * v) 1 c.P).2 h

/-- The on-curve predicate is the range check and the library's Weierstrass equation (R90). -/
theorem onCurve_affine_iff : onCurve c (.affine x y) = true ↔
    (Point.affine x y).inRange c = true ∧ c.weierstrass.Equation (x : ZMod c.P) (y : ZMod c.P) := by
  have heq : emod (y * y - (x * x * x + c.A * x + c.B)) c.P = 0 ↔ c.weierstrass.Equation (x : ZMod c.P) (y : ZMod c.P) := by
    rw [emod, ← Int.dvd_iff_emod_eq_zero, ← ZMod.intCast_zmod_eq_zero_iff_dvd, WeierstrassCurve.Affine.equation_iff']
    simp [CurveParams.weierstrass, pow_succ]
  rw [onCurve, Bool.and_eq_true, decide_eq_true_eq, heq]

theorem onCurve_inRange {Q : Point} (h : onCurve c Q = true) : Q.inRange c = true := by
  cases Q with
  | identity => rfl
  | affine x y => exact (onCurve_affine_iff.1 h).1

/-! `add` over an odd prime. -/

theorem double_eq_add_self (c : CurveParams) (Q : Point) : double c Q = add c Q Q := by
  cases Q with
  | identity => rfl
  | affine x y => exact (add_self c x y).symm

variable [Fact c.P.Prime]

/-- The third point on the line with the slope `sl`, reflected: the model's formulas are the library's. -/
theorem cast_thirdPoint {sl x3 : Int} {l : ZMod c.P} (hsl : (sl : ZMod c.P) = l) (hx3 : x3 = (sl * sl - x1 - x2) % c.P) :
    (x3 : ZMod c.P) = c.weierstrass.addX x1 x2 l ∧
    (((sl * (x1 - x3) - y1) % (c.P : Int) : Int) : ZMod c.P) = c.weierstrass.addY x1 x2 y1 l := by
  have hx : (x3 : ZMod c.P) = c.weierstrass.addX x1 x2 l := by
    rw [hx3, cast_emod_P, ← hsl]
    simp [CurveParams.weierstrass, pow_two]
  refine ⟨hx, ?_⟩
  rw [cast_emod_P, WeierstrassCurve.Affine.addY, WeierstrassCurve.Affine.negAddY, ← hx, ← hsl]
  simp [CurveParams.weierstrass]
  ring

/-- The tangent's slope is the library's (R92). -/
theorem cast_tangent_slope {i sl : Int} (hi : isInverse i (2 * y) c.P) (hsl : sl = (3 * (x * x) + c.A) * i % c.P) :
    (y : ZMod c.P) ≠ c.weierstrass.negY x y ∧ (sl : ZMod c.P) = c.weierstrass.slope x x y y := by
  have hinv : (i : ZMod c.P) * (2 * y) = 1 := by exact_mod_cast cast_mul_of_isInverse hi
  have hneg : c.weierstrass.negY (x : ZMod c.P) (y : ZMod c.P) = -y := by simp [CurveParams.weierstrass]
  have h2y : (2 : ZMod c.P) * y ≠ 0 := right_ne_zero_of_mul_eq_one hinv
  have hne : (y : ZMod c.P) ≠ c.weierstrass.negY x y := by
    rw [hneg]
    intro h
    exact h2y (by linear_combination h)
  refine ⟨hne, ?_⟩
  rw [WeierstrassCurve.Affine.slope_of_Y_ne rfl hne, hneg, sub_neg_eq_add, ← two_mul, eq_div_iff h2y, hsl, cast_emod_P]
  simp only [CurveParams.weierstrass]
  push_cast
  linear_combination (3 * (x : ZMod c.P) * x + c.A) * hinv

/-- The chord's slope is the library's (R93). -/
theorem cast_chord_slope {i sl : Int} (hi : isInverse i (x2 - x1) c.P) (hsl : sl = (y2 - y1) * i % c.P) :
    (x1 : ZMod c.P) ≠ x2 ∧ (sl : ZMod c.P) = c.weierstrass.slope x1 x2 y1 y2 := by
  have hinv : (i : ZMod c.P) * (x2 - x1) = 1 := by exact_mod_cast cast_mul_of_isInverse hi
  have hne : (x1 : ZMod c.P) ≠ x2 := fun h => right_ne_zero_of_mul_eq_one hinv (sub_eq_zero.2 h.symm)
  refine ⟨hne, ?_⟩
  rw [WeierstrassCurve.Affine.slope_of_X_ne hne, eq_div_iff (sub_ne_zero.2 hne), hsl, cast_emod_P]
  push_cast
  linear_combination ((y1 : ZMod c.P) - y2) * hinv

/-- `add` of two affine points of the curve by the library's case distinction: opposite points, or the line of the slope. -/
theorem add_affine_cases (hP2 : c.P ≠ 2) (h1 : onCurve c (.affine x1 y1) = true) (h2 : onCurve c (.affine x2 y2) = true) :
    (((x1 : ZMod c.P) = x2 ∧ (y1 : ZMod c.P) = c.weierstrass.negY x2 y2) ∧
      add c (.affine x1 y1) (.affine x2 y2) = .ok .identity) ∨
    (¬ ((x1 : ZMod c.P) = x2 ∧ (y1 : ZMod c.P) = c.weierstrass.negY x2 y2) ∧
      ∃ x3 y3, add c (.affine x1 y1) (.affine x2 y2) = .ok (.affine x3 y3) ∧
        (x3 : ZMod c.P) = c.weierstrass.addX x1 x2 (c.weierstrass.slope x1 x2 y1 y2) ∧
        (y3 : ZMod c.P) = c.weierstrass.addY x1 x2 y1 (c.weierstrass.slope x1 x2 y1 y2)) := by
  have hP : c.P.Prime := Fact.out
  obtain ⟨hin1, heq1⟩ := onCurve_affine_iff.1 h1
  obtain ⟨hin2, heq2⟩ := onCurve_affine_iff.1 h2
  obtain ⟨hx1, hy1⟩ := Point.inRange_affine_iff.1 hin1
  obtain ⟨hx2, hy2⟩ := Point.inRange_affine_iff.1 hin2
  by_cases hx : x1 = x2
  · subst hx
    by_cases hy : y1 = y2
    · subst hy
      rw [add_self]
      rcases hy1.1.eq_or_lt with rfl | hpos
      · exact .inl ⟨⟨rfl, by simp [CurveParams.weierstrass]⟩, double_y_zero c x1⟩
      · obtain ⟨i, sl, x3, hinv, hsl, hx3, hR⟩ := double_tangent (x := x1) hP hP2 hpos hy1.2
        obtain ⟨hne, hslope⟩ := cast_tangent_slope hinv hsl
        exact .inr ⟨fun h => hne h.2, _, _, hR, cast_thirdPoint hslope (by rw [hx3, two_mul, sub_sub])⟩
    · have hne : (y1 : ZMod c.P) ≠ y2 := fun h => hy (eq_of_cast_eq hy1 hy2 h)
      have hopp := (WeierstrassCurve.Affine.Y_eq_of_X_eq heq1 heq2 rfl).resolve_left hne
      exact .inl ⟨⟨rfl, hopp⟩, add_same_x c x1 hy⟩
  · obtain ⟨i, sl, x3, hinv, hsl, hx3, hR⟩ := add_chord (y1 := y1) (y2 := y2) hP hx (abs_lt.2 ⟨by omega, by omega⟩)
    obtain ⟨hne, hslope⟩ := cast_chord_slope hinv hsl
    exact .inr ⟨fun h => hne h.1, _, _, hR, cast_thirdPoint hslope hx3⟩

/-- The sum of curve points is on the curve, singular or not, by the library's equation of the sum. -/
theorem onCurve_add (hP2 : c.P ≠ 2) {Q1 Q2 R : Point} (h1 : onCurve c Q1 = true) (h2 : onCurve c Q2 = true)
    (hR : add c Q1 Q2 = .ok R) : onCurve c R = true := by
  match Q1, Q2 with
  | .identity, Q2 =>
    cases hR
    exact h2
  | Q1, .identity =>
    rw [add_identity_right] at hR
    cases hR
    exact h1
  | .affine x1 y1, .affine x2 y2 =>
    obtain ⟨R', hR', hin⟩ := add_inRange Fact.out hP2 (onCurve_inRange h1) (onCurve_inRange h2)
    cases hR.symm.trans hR'
    rcases add_affine_cases hP2 h1 h2 with ⟨-, hsum⟩ | ⟨hne, x3, y3, hsum, hx3, hy3⟩ <;> cases hR.symm.trans hsum
    · rfl
    · refine onCurve_affine_iff.2 ⟨hin, ?_⟩
      rw [hx3, hy3]
      exact WeierstrassCurve.Affine.equation_add (onCurve_affine_iff.1 h1).2 (onCurve_affine_iff.1 h2).2 hne

end Machine
end Sys2Proof
end

section
/-! PROOFS. The model's points as elements of the library's group of a curve over an odd prime, and the hardware's curve
(42_scalar_mult.md R103). -/

namespace Sys2Proof.Machine

variable {c : CurveParams}

/-- A model's point stands for an element of the group of nonsingular points: the same coordinates, reduced. -/
def Point.Represents (c : CurveParams) : Point → c.weierstrass.Point → Prop
  | .identity, .zero => True
  | .affine x y, .some X Y _ => (Point.affine x y).inRange c = true ∧ (x : ZMod c.P) = X ∧ (y : ZMod c.P) = Y
  | _, _ => False

/-- An element of the group is represented by points of the curve only. -/
theorem onCurve_of_represents {Q : Point} {q : c.weierstrass.Point} (h : Q.Represents c q) : onCurve c Q = true := by
  match Q, q, h with
  | .identity, .zero, _ => rfl
  | .affine x y, .some _ _ hns, ⟨hin, rfl, rfl⟩ => exact onCurve_affine_iff.2 ⟨hin, hns.1⟩

/-- An element of the group is represented by one point. -/
theorem represents_unique {Q R : Point} {q : c.weierstrass.Point} (hQ : Q.Represents c q) (hR : R.Represents c q) :
    Q = R := by
  match Q, R, q, hQ, hR with
  | .identity, .identity, .zero, _, _ => rfl
  | .affine x y, .affine x' y', .some _ _ _, ⟨hin, rfl, rfl⟩, ⟨hin', hx, hy⟩ =>
    obtain ⟨hxr, hyr⟩ := Point.inRange_affine_iff.1 hin
    obtain ⟨hxr', hyr'⟩ := Point.inRange_affine_iff.1 hin'
    rw [eq_of_cast_eq hxr hxr' hx.symm, eq_of_cast_eq hyr hyr' hy.symm]

/-- `Identity` stands for the neutral element only. -/
theorem eq_zero_of_identity_represents {q : c.weierstrass.Point} (h : Point.identity.Represents c q) : q = 0 := by
  match q, h with
  | .zero, _ => rfl

variable [Fact c.P.Prime]

/-- `add` is the addition of the group. -/
theorem add_represents (hP2 : c.P ≠ 2) {Q1 Q2 : Point} {q1 q2 : c.weierstrass.Point} (h1 : Q1.Represents c q1)
    (h2 : Q2.Represents c q2) : ∃ R, add c Q1 Q2 = .ok R ∧ R.Represents c (q1 + q2) := by
  have hc1 := onCurve_of_represents h1
  have hc2 := onCurve_of_represents h2
  match Q1, q1, h1 with
  | .identity, .zero, _ => exact ⟨Q2, add_identity_left c Q2, (zero_add q2).symm ▸ h2⟩
  | .affine x1 y1, .some _ _ hns1, ⟨hin1, rfl, rfl⟩ =>
    match Q2, q2, h2 with
    | .identity, .zero, _ => exact ⟨_, add_identity_right c _, ⟨hin1, rfl, rfl⟩⟩
    | .affine x2 y2, .some _ _ hns2, ⟨hin2, rfl, rfl⟩ =>
      obtain ⟨R, hR, hin⟩ := add_inRange Fact.out hP2 hin1 hin2
      refine ⟨R, hR, ?_⟩
      rcases add_affine_cases hP2 hc1 hc2 with ⟨⟨hx, hy⟩, hsum⟩ | ⟨hne, x3, y3, hsum, hx3, hy3⟩ <;> cases hR.symm.trans hsum
      · rw [WeierstrassCurve.Affine.Point.add_of_Y_eq hx hy]
        trivial
      · rw [WeierstrassCurve.Affine.Point.add_some hne]
        exact ⟨hin, hx3, hy3⟩

/-- The loop adds the multiple of the addend by what is left of the scalar (R100). -/
theorem smulLoop_represents (hP2 : c.P ≠ 2) (j : Nat) : ∀ {m : SmulState} {r q : c.weierstrass.Point}, m.R.Represents c r →
    m.Q.Represents c q → m.n < 2 ^ j → ∃ m', smulLoop c j m = .ok m' ∧ m'.R.Represents c (r + m.n • q) := by
  induction j with
  | zero =>
    intro m r q hR _ hn
    have h0 : m.n = 0 := by omega
    exact ⟨m, rfl, by simpa [h0] using hR⟩
  | succ j ih =>
    intro m r q hR hQ hn
    by_cases h0 : m.n = 0
    · exact ⟨m, smulLoop_done c _ h0, by simpa [h0] using hR⟩
    · obtain ⟨Q', hdbl, hQ'⟩ := add_represents hP2 hQ hQ
      rw [← double_eq_add_self] at hdbl
      obtain ⟨R', hsum, hR'⟩ : ∃ R', smulSum c m = .ok R' ∧ R'.Represents c (r + (m.n % 2) • q) := by
        unfold smulSum
        split
        case isTrue h =>
          rw [h, one_nsmul]
          exact add_represents hP2 hR hQ
        case isFalse h => exact ⟨m.R, rfl, by simpa [Nat.mod_two_ne_one.1 h] using hR⟩
      obtain ⟨m', hloop, hm'⟩ := ih (m := ⟨R', Q', m.n / 2⟩) hR' hQ' (by simp only; omega)
      refine ⟨m', (smulLoop_succ j h0 (smulBody_of_ok hsum hdbl)).trans hloop, ?_⟩
      have hbits : r + (m.n % 2) • q + (m.n / 2) • (q + q) = r + m.n • q := by
        rw [← two_nsmul, ← mul_nsmul', add_assoc, ← add_nsmul, mul_comm, Nat.mod_add_div]
      rwa [hbits] at hm'

/-- `scalarMultiply` is the multiple of the group. -/
theorem scalarMultiply_represents (hP2 : c.P ≠ 2) (k : Nat) {Q : Point} {q : c.weierstrass.Point} (hQ : Q.Represents c q) :
    ∃ R, scalarMultiply c k Q = .ok R ∧ R.Represents c (k • q) := by
  obtain ⟨m, hloop, hm⟩ := smulLoop_represents (m := ⟨.identity, Q, k⟩) (r := 0) hP2 (bitlen k) trivial hQ
    (bitlen_le_iff.1 le_rfl)
  exact ⟨m.R, scalarMultiply_of_loop (Int.natCast_nonneg k) hloop, by simpa using hm⟩

theorem repeatedSum_represents (hP2 : c.P ≠ 2) {Q : Point} {q : c.weierstrass.Point} (hQ : Q.Represents c q) (k : Nat) :
    ∃ R, repeatedSum c Q k = .ok R ∧ R.Represents c (k • q) := by
  induction k with
  | zero => exact ⟨.identity, rfl, by rw [zero_nsmul]; trivial⟩
  | succ k ih =>
    obtain ⟨R, hR, hr⟩ := ih
    obtain ⟨S, hS, hs⟩ := add_represents hP2 hr hQ
    refine ⟨S, ?_, by rwa [succ_nsmul]⟩
    rw [repeatedSum, hR]
    exact hS

/-- On a nonsingular curve every point of the curve represents an element of the group. -/
theorem exists_represented (hΔ : c.weierstrass.Δ ≠ 0) {Q : Point} (h : onCurve c Q = true) : ∃ q, Q.Represents c q := by
  cases Q with
  | identity => exact ⟨0, trivial⟩
  | affine x y =>
    obtain ⟨hin, heq⟩ := onCurve_affine_iff.1 h
    exact ⟨.some _ _ ((WeierstrassCurve.Affine.equation_iff_nonsingular_of_Δ_ne_zero hΔ).1 heq), hin, rfl, rfl⟩

end Sys2Proof.Machine
end

section
/-! PROOFS. The statements about curve points: 41_point_algebra.md R90, 42_scalar_mult.md R103. -/

namespace Sys2Proof.Machine

/-- The curve of this hardware is nonsingular. -/
theorem curve_Δ_ne_zero : Config.curve.weierstrass.Δ ≠ 0 := by decide

/-- Settles O28: the library's equation of the sum, and the double as the sum with itself. -/
theorem sumOfCurvePointsIsOnTheCurve : Obligations.SumOfCurvePointsIsOnTheCurve := by
  unfold Obligations.SumOfCurvePointsIsOnTheCurve
  intro c Q1 Q2 R hP hP2 h1 h2
  have : Fact c.P.Prime := ⟨hP⟩
  refine ⟨onCurve_add hP2 h1 h2, fun hR => onCurve_add hP2 h1 h1 ?_⟩
  rwa [← double_eq_add_self]

/-- Settles O32: both are the multiple of the group, and an element of the group is represented once. -/
theorem scalarMultiplyIsRepeatedSum : Obligations.ScalarMultiplyIsRepeatedSum := by
  unfold Obligations.ScalarMultiplyIsRepeatedSum
  intro Q k h
  have : Fact Config.curve.P.Prime := ⟨curve_P_prime⟩
  obtain ⟨q, hq⟩ := exists_represented curve_Δ_ne_zero h
  obtain ⟨R, hR, hr⟩ := scalarMultiply_represents (by decide) k hq
  obtain ⟨S, hS, hs⟩ := repeatedSum_represents (by decide) hq k
  exact ⟨R, hR, represents_unique hs hr ▸ hS, onCurve_of_represents hr⟩

/-- Settles O33: both orders give the multiple by the product of the scalars. -/
theorem keyAgreementCommutes : Obligations.KeyAgreementCommutes := by
  unfold Obligations.KeyAgreementCommutes
  intro Q k1 k2 h
  have : Fact Config.curve.P.Prime := ⟨curve_P_prime⟩
  obtain ⟨q, hq⟩ := exists_represented curve_Δ_ne_zero h
  obtain ⟨Q1, h1, hq1⟩ := scalarMultiply_represents (by decide) k1 hq
  obtain ⟨Q2, h2, hq2⟩ := scalarMultiply_represents (by decide) k2 hq
  obtain ⟨R, hR, hr⟩ := scalarMultiply_represents (by decide) k1 hq2
  obtain ⟨S, hS, hs⟩ := scalarMultiply_represents (by decide) k2 hq1
  rw [smul_comm] at hs
  exact ⟨Q1, Q2, R, h1, h2, hR, represents_unique hs hr ▸ hS⟩

/-- Four times the generator is `Identity`, so only the scalar modulo 4 matters (R103). -/
theorem scalarMultiply_generator_mod_four (k : Nat) :
    scalarMultiply Config.curve k (.affine 2 9) = scalarMultiply Config.curve (k % 4 : Nat) (.affine 2 9) := by
  have : Fact Config.curve.P.Prime := ⟨curve_P_prime⟩
  obtain ⟨g, hg⟩ := exists_represented curve_Δ_ne_zero (Q := .affine 2 9) (by decide)
  have multiple (n : Nat) := scalarMultiply_represents (by decide) n hg
  have h4 : 4 • g = 0 := by
    obtain ⟨R, hR, hr⟩ := multiple 4
    have hid : scalarMultiply Config.curve (4 : Nat) (.affine 2 9) = .ok .identity := by decide
    cases hR.symm.trans hid
    exact eq_zero_of_identity_represents hr
  have hmod : k • g = (k % 4) • g := by
    calc k • g = (4 * (k / 4) + k % 4) • g := by rw [Nat.div_add_mod]
      _ = (k % 4) • g := by rw [add_nsmul, mul_comm, mul_nsmul', h4, nsmul_zero, zero_add]
  obtain ⟨R, hR, hr⟩ := multiple k
  obtain ⟨S, hS, hs⟩ := multiple (k % 4)
  rw [hmod] at hr
  rw [hR, hS, represents_unique hr hs]

/-- Settles O31: the generator is a point of the curve, and its four multiples are evaluated. -/
theorem scalarMultiplyOfTheGenerator : Obligations.ScalarMultiplyOfTheGenerator := by
  unfold Obligations.ScalarMultiplyOfTheGenerator
  refine ⟨scalarMultiply_zero, fun k1 k2 => keyAgreementCommutes _ k1 k2 (by decide), fun k => ?_, by decide⟩
  have table : ∀ r < 4, scalarMultiply Config.curve (r : Nat) (.affine 2 9) =
      .ok (if r = 0 then .identity else if r = 1 then .affine 2 9 else if r = 2 then .affine 5 0 else .affine 2 92) := by
    decide
  exact (scalarMultiply_generator_mod_four k).trans (table (k % 4) (Nat.mod_lt k (by decide)))

end Sys2Proof.Machine
end

section
/-! PROOFS. Runs of host programs in the schedule in which no turn is listed (30_encoding.md R68): what each
pseudo-instruction leaves, said once, so that a sequence is read off piece by piece. -/

namespace Sys2Proof.Machine

/-- `k` steps of the machine, in the machine's own types. -/
def runFor (k : Nat) (s : State) : Host.Outcome State Fault Refusal := Host.Core.run Sys2Proof.core k s

theorem runFor_succ {s t : State} (k : Nat) (h : step s = .next t) : runFor (k + 1) s = runFor k t := run_succ k h

/-- The registers of `s` with the host about to do `p`, no turn listed, and `resp` as the last answer. -/
def State.hosting (s : State) (p : List HostOp) (resp : Option BusResponse) : State :=
  { s with env := { program := p, turns := [], response := resp } }

variable {s u : State} {p rest : List HostOp} {resp : Option BusResponse}

theorem State.eq_hosting (ht : s.env.turns = []) (hp : s.env.program = p) : s = s.hosting p s.env.response := by
  subst hp
  simp only [State.hosting, ← ht]

/-- A host write does to the registers what it does, whatever stands outside. -/
theorem State.writeReg_hosting (s : State) (r : WindowReg) (v : Word) (p p' : List HostOp)
    (resp resp' : Option BusResponse) :
    ((s.hosting p resp).writeReg r v).hosting p' resp' = (s.writeReg r v).hosting p' resp' := by
  have cond {b : Bool} {s1 s2 : State} : (if b then s1.hosting p resp else s2.hosting p resp).hosting p' resp' =
      (if b then s1 else s2).hosting p' resp' := by
    cases b <;> rfl
  have data (s2 : State) := cond (b := s.status.busy) (s1 := s.drop) (s2 := s2)
  cases r with
  | cmd => exact cond (b := s.status.accepts) (s1 := s.accept v) (s2 := s.drop)
  | x i => exact data (s.writeX i v)
  | ptTag i => exact data (s.writePtReg i { s.readPtReg i with inf := v.getLsbD 0 })
  | ptX i => exact data (s.writePtReg i { s.readPtReg i with x := v })
  | ptY i => exact data (s.writePtReg i { s.readPtReg i with y := v })
  | iv j => exact data { s with iv := s.iv.set j.val v }
  | key j => exact data { s with key := s.key.set j.val v }
  | _ => rfl

/-- A command writes what it writes, whatever stands outside. -/
theorem exec_hosting {i : Instr} (h : exec i s = .next u) : exec i (s.hosting p resp) = .next (u.hosting p resp) := by
  have hsame : (s.hosting p resp).sameData s := ⟨rfl, rfl, rfl, rfl⟩
  rw [exec_eq] at h ⊢
  cases h
  rw [result_congr hsame]
  match commandResult i s with
  | .error e => rfl
  | .ok (.intReg d v) => rfl
  | .ok (.pointReg d Q) => rfl
  | .ok (.keyMaterial iv key) => rfl

/-- A host write of the program. -/
theorem run_hostWrite (n : Nat) (r : WindowReg) (v : Word) (hb : s.status.busy = false) :
    runFor (n + 1) (s.hosting (hostWrite r v :: rest) resp) =
      runFor n ((s.writeReg r v).hosting rest (some .ok)) := by
  rw [runFor_succ n (step_hostWrite (s := s.hosting _ resp) rfl hb rfl), ← s.writeReg_hosting r v _ rest resp (some .ok)]
  rfl

/-- A host read of the program. -/
theorem run_hostRead (n : Nat) (r : WindowReg) (hb : s.status.busy = false) :
    runFor (n + 1) (s.hosting (hostRead r :: rest) resp) =
      runFor n (s.hosting rest (some (.data (s.readReg r)))) := by
  have hread : (s.hosting (hostRead r :: rest) resp).readReg r = s.readReg r := by cases r <;> rfl
  rw [runFor_succ n (step_hostRead (s := s.hosting _ resp) rfl hb rfl), hread]
  rfl

/-- RUN of a well-formed command on a ready hardware: acceptance, completion, and the poll that ends WAIT (R68, R106). -/
theorem run_command (n : Nat) {i : Instr} {b : Bool} (hr : s.ready) (hwf : i.wellFormed = true)
    (h : exec i (s.accept (encode i)) = .next u) :
    runFor (n + 3) (s.hosting (hostWrite .cmd (encode i) :: .wait b :: rest) resp) =
      runFor n
        (u.hosting (if b && u.status.err then [] else rest) (some (.data u.status.word))) := by
  have hbusy := exec_busy h
  rw [run_hostWrite (n + 2) .cmd (encode i) hr.1, State.writeReg_cmd_of_ready _ hr,
    runFor_succ (n + 1) ((step_completion rfl rfl (decode_encode hwf)).trans (exec_hosting h)),
    runFor_succ n (step_wait (s := u.hosting _ _) rfl hbusy rfl)]
  rfl

/-- RUN of a command that succeeds goes on with the program, whichever WAIT ends it. -/
theorem run_command_of_success (n : Nat) {i : Instr} {b : Bool} (hr : s.ready) (hwf : i.wellFormed = true)
    (h : exec i (s.accept (encode i)) = .next u) (hu : u.status.err = false) :
    runFor (n + 3) (s.hosting (hostWrite .cmd (encode i) :: .wait b :: rest) resp) =
      runFor n (u.hosting rest (some (.data u.status.word))) := by
  rw [run_command n hr hwf h, hu, Bool.and_false]
  rfl

/-! Loading operands. -/

/-- LI of a number writes its word (R68). -/
theorem run_pseudoLI (n : Nat) (i : RegIndex) (a : Int) (hb : s.status.busy = false) :
    runFor (n + 1) (s.hosting (pseudoLI i a ++ rest) resp) =
      runFor n ((s.writeX i (BitVec.ofInt 32 a)).hosting rest (some .ok)) := by
  have hword : (if a < 0 then sext32 a else zext32 a) = BitVec.ofInt 32 a := ite_self _
  have hwrite : s.writeReg (.x i) (BitVec.ofInt 32 a) = s.writeX i (BitVec.ofInt 32 a) := State.ifIdle_of_idle _ hb
  rw [← hwrite, ← hword]
  exact run_hostWrite n (.x i) _ hb

/-- A host write changes `BUSY` by an acceptance only, so a write to a data register leaves an idle hardware idle. -/
theorem State.writeReg_idle (r : WindowReg) (v : Word) (hb : s.status.busy = false) (hr : r ≠ .cmd) :
    (s.writeReg r v).status.busy = false := by
  rcases s.writeReg_cases r v with h | ⟨-, x, pt, iv, key, h⟩ | h | ⟨rfl, -⟩ | ⟨-, h⟩
  · rw [h, hb]
  · rw [h]
    exact hb
  · rw [h]
    exact hb
  · exact absurd rfl hr
  · rw [h]
    exact hb

/-- Three host writes, one to each part of a point register, in the orders of SETPT and SETID (R68). -/
theorem State.writeReg_parts (i : RegIndex) (tag x y : Word) (hb : s.status.busy = false) :
    ((s.writeReg (.ptX i) x).writeReg (.ptY i) y).writeReg (.ptTag i) tag =
      s.writePtReg i { inf := tag.getLsbD 0, x := x, y := y } ∧
    ((s.writeReg (.ptTag i) tag).writeReg (.ptX i) x).writeReg (.ptY i) y =
      s.writePtReg i { inf := tag.getLsbD 0, x := x, y := y } := by
  constructor <;> simp [State.writeReg, State.ifIdle, hb, State.writePtReg, State.readPtReg]

/-- SETPT or SETID leaves the point in the register, whatever it held (R68). -/
theorem run_setPoint (n : Nat) (i : RegIndex) (Q : Point) (hb : s.status.busy = false) :
    runFor (n + 3) (s.hosting (setPoint i Q ++ rest) resp) = runFor n ((s.writePt i Q).hosting rest (some .ok)) := by
  cases Q with
  | identity =>
    have hb1 := State.writeReg_idle (.ptTag i) 1#32 hb (by simp)
    have hb2 := State.writeReg_idle (.ptX i) 0#32 hb1 (by simp)
    have hend := (State.writeReg_parts i 1#32 0#32 0#32 hb).2
    calc runFor (n + 3) (s.hosting (setPoint i .identity ++ rest) resp) = _ := run_hostWrite (n + 2) _ _ hb
      _ = _ := run_hostWrite (n + 1) _ _ hb1
      _ = _ := run_hostWrite n _ _ hb2
      _ = runFor n ((s.writePt i .identity).hosting rest (some .ok)) := by rw [hend]; rfl
  | affine x y =>
    have hb1 := State.writeReg_idle (.ptX i) (zext32 x) hb (by simp)
    have hb2 := State.writeReg_idle (.ptY i) (zext32 y) hb1 (by simp)
    have hend := (State.writeReg_parts i 0#32 (zext32 x) (zext32 y) hb).1
    calc runFor (n + 3) (s.hosting (setPoint i (.affine x y) ++ rest) resp) = _ := run_hostWrite (n + 2) _ _ hb
      _ = _ := run_hostWrite (n + 1) _ _ hb1
      _ = _ := run_hostWrite n _ _ hb2
      _ = runFor n ((s.writePt i (.affine x y)).hosting rest (some .ok)) := by rw [hend]; rfl

/-! Reading results. -/

/-- The reads of a list of registers answer with their words, one after the other. -/
theorem run_hostReads (hb : s.status.busy = false) (rs : List WindowReg) : ∀ {n : Nat} {resp : Option BusResponse}
    (hn : n < rs.length), ∃ t, runFor (n + 1) (s.hosting (rs.map hostRead) resp) = .next t ∧
      t.env.response = some (.data (s.readReg rs[n])) := by
  induction rs with
  | nil => intro n resp hn; simp at hn
  | cons r rs ih =>
    intro n resp hn
    rw [List.map_cons, run_hostRead n r hb]
    cases n with
    | zero => exact ⟨_, rfl, rfl⟩
    | succ n => exact ih (Nat.lt_of_succ_lt_succ hn)

/-! RUN. -/

/-- The fields of a command on registers of the hardware are legal. -/
theorem wellFormed_onRegisters (d a b : RegIndex) :
    (Instr.modinv (indexField d) (indexField a) (indexField b)).wellFormed = true ∧
    (Instr.padd (indexField d) (indexField a) (indexField b)).wellFormed = true ∧
    (Instr.smul (indexField d) (indexField a) (indexField b)).wellFormed = true ∧
    (Instr.kdf (indexField a)).wellFormed = true ∧ (Instr.ldg (indexField d)).wellFormed = true := by
  simp [Instr.wellFormed, legal_indexField]

/-- Settles O57: acceptance changes no data register, so the command evaluates to what it evaluates to on the registers as
they stood. -/
theorem runLeavesTheCommandsEffect : Obligations.RunLeavesTheCommandsEffect := by
  unfold Obligations.RunLeavesTheCommandsEffect
  intro s i rest hr ht hp hwf
  have hsame : (s.accept (encode i)).sameData s := ⟨rfl, rfl, rfl, rfl⟩
  have haccepted := exec_eq i (s.accept (encode i))
  rw [result_congr hsame] at haccepted
  have hrun := run_command 0 (b := false) (rest := rest) (resp := s.env.response) hr hwf haccepted
  have hs : s = s.hosting _ _ := State.eq_hosting ht hp
  obtain ⟨-, herr⟩ := id hr
  refine ⟨_, _, (congrArg (runFor 3) hs).trans hrun, exec_eq i s, hsame.complete _, ?_⟩
  cases commandResult i s with
  | ok r => simp [State.hosting, State.complete_ok, herr]
  | error e => simp [State.hosting, State.complete_error]

end Sys2Proof.Machine
end

section
/-! PROOFS. The sequences of 30_encoding.md R69 and 42_scalar_mult.md R105, R106 on an idle hardware, piece by piece. -/

namespace Sys2Proof.Machine

variable {s : State} {rest : List HostOp} {resp : Option BusResponse}

/-! Operands in registers. -/

/-- A number that fits a signed word is read back from it. -/
theorem toInt_ofInt {a : Int} (h0 : -2 ^ 31 ≤ a) (h1 : a < 2 ^ 31) : (BitVec.ofInt 32 a).toInt = a :=
  BitVec.toInt_ofInt_eq_self (by decide) h0 h1

/-- A number that fits an unsigned word is read back from it. -/
theorem toNat_ofInt_natCast {p : Nat} (h : p < 2 ^ 32) : (BitVec.ofInt 32 p).toNat = p := by
  rw [BitVec.ofInt_natCast, BitVec.toNat_ofNat, Nat.mod_eq_of_lt h]

/-- An in-range point passes through a register, and passes the range check there (R23, R91). -/
theorem ofPoint_of_inRange {Q : Point} (h : Q.inRange Config.curve = true) :
    (PointReg.ofPoint Q).point = Q ∧ ¬ (PointReg.ofPoint Q).outOfRange := by
  cases Q with
  | identity => exact ⟨rfl, by decide⟩
  | affine x y =>
    obtain ⟨hx, hy⟩ := Point.inRange_affine_iff.1 h
    have hP : Config.curve.P = 101 := rfl
    rw [hP] at hx hy
    have hpoint := PointReg.point_ofPoint_affine (x := x) (y := y) ⟨hx.1, by omega⟩ ⟨hy.1, by omega⟩
    refine ⟨hpoint, ?_⟩
    rw [PointReg.point_of_not_inf rfl] at hpoint
    injection hpoint with hxe hye
    rintro ⟨-, hout⟩
    omega

theorem State.x_writeX (s : State) (i j : RegIndex) (v : Word) : (s.writeX i v).x[j.val] = if i = j then v else s.x[j.val] :=
  s.readX_writeX i j v

theorem State.pt_writePt (s : State) (i j : RegIndex) (Q : Point) :
    (s.writePt i Q).pt[j.val] = if i = j then PointReg.ofPoint Q else s.pt[j.val] :=
  s.readPtReg_writePt i j Q

/-! Pieces of a host program. -/

/-- The piece `p` of a host program takes `n` steps from the registers of `s` and leaves those of `t`, whatever was answered
before and whatever the program does next. -/
def Leaves (s : State) (p : List HostOp) (n : Nat) (t : State) : Prop :=
  ∀ (rest : List HostOp) (k : Nat) (resp : Option BusResponse), ∃ resp',
    runFor (k + n) (s.hosting (p ++ rest) resp) = runFor k (t.hosting rest resp')

theorem Leaves.trans {s t u : State} {p q : List HostOp} {n m : Nat} (h : Leaves s p n t) (h' : Leaves t q m u) :
    Leaves s (p ++ q) (m + n) u := by
  intro rest k resp
  obtain ⟨resp1, h1⟩ := h (q ++ rest) (k + m) resp
  obtain ⟨resp2, h2⟩ := h' rest k resp1
  exact ⟨resp2, by rw [List.append_assoc, ← Nat.add_assoc, h1, h2]⟩

/-- A host whose whole program is such a piece ends with it, and with those registers. -/
theorem Leaves.run {s t : State} {p : List HostOp} {n : Nat} (h : Leaves s p n t) (ht : s.env.turns = [])
    (hp : s.env.program = p) : ∃ resp, Host.Core.run Sys2Proof.core n s = .next (t.hosting [] resp) := by
  obtain ⟨resp, hrun⟩ := h [] 0 s.env.response
  rw [List.append_nil, ← State.eq_hosting ht hp, Nat.zero_add] at hrun
  exact ⟨resp, hrun⟩

variable {s u : State}

theorem leaves_pseudoLI (i : RegIndex) (a : Int) (hb : s.status.busy = false) :
    Leaves s (pseudoLI i a) 1 (s.writeX i (BitVec.ofInt 32 a)) :=
  fun _ k _ => ⟨_, run_pseudoLI k i a hb⟩

theorem leaves_setPoint (i : RegIndex) (Q : Point) (hb : s.status.busy = false) :
    Leaves s (setPoint i Q) 3 (s.writePt i Q) :=
  fun _ k _ => ⟨_, run_setPoint k i Q hb⟩

theorem leaves_pseudoRUN {i : Instr} (hr : s.ready) (hwf : i.wellFormed = true)
    (h : exec i (s.accept (encode i)) = .next u) : Leaves s (pseudoRUN i) 3 u :=
  fun _ k _ => ⟨_, run_command k (b := false) hr hwf h⟩

theorem leaves_runOrEnd {i : Instr} (hr : s.ready) (hwf : i.wellFormed = true) (h : exec i (s.accept (encode i)) = .next u)
    (hu : u.status.err = false) : Leaves s (runOrEnd i) 3 u :=
  fun _ k _ => ⟨_, run_command_of_success k (b := true) hr hwf h hu⟩

/-! The sequences of R105 and R106. -/

/-- SMUL of a valid scalar and an in-range point succeeds, so the sequence goes on (R101, R106). -/
theorem leaves_smul (d : RegIndex) {a r : RegIndex} {k : Nat} {Q : Point} (hr : s.ready) (hk : k ≤ Config.kmax)
    (hQ : Q.inRange Config.curve = true) (hx : s.x[r.val] = BitVec.ofInt 32 k) (hpt : s.pt[a.val] = PointReg.ofPoint Q) :
    ∃ R, scalarMultiply Config.curve k Q = .ok R ∧
      Leaves s (runOrEnd (.smul (indexField d) (indexField a) (indexField r))) 3
        ((s.accept (encode (.smul (indexField d) (indexField a) (indexField r)))).afterPoint d (PointReg.ofPoint R)) := by
  obtain ⟨hpoint, hin⟩ := ofPoint_of_inRange hQ
  obtain ⟨-, -, hwf, -⟩ := wellFormed_onRegisters d a r
  obtain ⟨R, hR, -⟩ := scalarMultiply_inRange curve_P_prime (by decide) (Int.natCast_nonneg k) hQ
  have hscalar : s.x[r.val].toInt = k := by
    have hmax : Config.kmax = 2147483647 := rfl
    rw [hx, toInt_ofInt (by omega) (by omega)]
  refine ⟨R, hR, leaves_runOrEnd hr hwf (exec_smul_of_scalarMultiply d ?_ ?_ ?_) hr.2⟩
  · rw [State.accept_x, hscalar]
    omega
  · rwa [State.accept_pt, hpt]
  · rwa [State.accept_x, State.accept_pt, hscalar, hpt, hpoint]

/-- Settles O54: LI, then LDG, then SMUL on what they left. -/
theorem keygenLeavesThePublicPoint : Obligations.KeygenLeavesThePublicPoint := by
  unfold Obligations.KeygenLeavesThePublicPoint
  intro s upperBound k i j hr ht hp hk
  simp only [drawable, Bool.and_eq_true, decide_eq_true_eq] at hk
  obtain ⟨⟨-, hku⟩, hmax⟩ := hk
  obtain ⟨-, -, -, -, hwf⟩ := wellFormed_onRegisters j j j
  have hx : (s.writeX i (BitVec.ofInt 32 k)).x[i.val] = BitVec.ofInt 32 k := (s.x_writeX i i _).trans (if_pos rfl)
  have hG : (s.pt.set j.val (affineReg 2 9))[j.val] = PointReg.ofPoint (.affine 2 9) := Vector.getElem_set_self _
  have hli := leaves_pseudoLI i k hr.1
  have hldg := leaves_runOrEnd (s := s.writeX i (BitVec.ofInt 32 k)) hr hwf (exec_ldg _ j) hr.2
  obtain ⟨R, hR, hsmul⟩ := leaves_smul j
    (s := ((s.writeX i (BitVec.ofInt 32 k)).accept (encode (.ldg (indexField j)))).afterPoint j (affineReg 2 9))
    ⟨rfl, hr.2⟩ (hku.trans hmax) (by decide) hx hG
  obtain ⟨resp, hrun⟩ := ((hli.trans hldg).trans hsmul).run ht hp
  obtain ⟨R', hR', -, hcurve⟩ := scalarMultiplyIsRepeatedSum (.affine 2 9) k (by decide)
  cases hR.symm.trans hR'
  refine ⟨_, R, hrun, hR, hcurve, rfl, rfl, rfl, hr.2, ?_, ?_, rfl, rfl⟩
  · exact congrArg (s.x.set i.val) (BitVec.ofInt_natCast 32 k)
  · exact Vector.set_set ..

/-- Settles O55: LI and the point, then SMUL. -/
theorem sharedLeavesTheSharedSecret : Obligations.SharedLeavesTheSharedSecret := by
  unfold Obligations.SharedLeavesTheSharedSecret
  intro s k Q i a d hr ht hp hk hQ
  have hx : ((s.writeX i (BitVec.ofInt 32 k)).writePt a Q).x[i.val] = BitVec.ofInt 32 k :=
    (s.x_writeX i i _).trans (if_pos rfl)
  have hpt : ((s.writeX i (BitVec.ofInt 32 k)).writePt a Q).pt[a.val] = PointReg.ofPoint Q :=
    (State.pt_writePt _ a a Q).trans (if_pos rfl)
  have hload := (leaves_pseudoLI i k hr.1).trans (leaves_setPoint a Q hr.1)
  obtain ⟨R, hR, hsmul⟩ := leaves_smul d (s := (s.writeX i (BitVec.ofInt 32 k)).writePt a Q) hr hk hQ hx hpt
  obtain ⟨resp, hrun⟩ := (hload.trans hsmul).run ht hp
  refine ⟨_, R, hrun, hR, rfl, rfl, rfl, hr.2, ?_, rfl, rfl, rfl⟩
  exact congrArg (s.x.set i.val) (BitVec.ofInt_natCast 32 k)

/-! The sequences of R69. -/

/-- The sequence of modInverse: LI twice, then MODINV, which reads what they wrote. -/
theorem leaves_sequenceModInverse {a : Int} {p : Nat} (d : RegIndex) {i m : RegIndex} (hr : s.ready) (him : i ≠ m)
    (h0 : -2 ^ 31 ≤ a) (h1 : a < 2 ^ 31) (hp : p < 2 ^ 32) :
    Leaves s (sequenceModInverse a p d i m) 5
      ((((s.writeX i (BitVec.ofInt 32 a)).writeX m (BitVec.ofInt 32 p)).accept
        (encode (.modinv (indexField d) (indexField i) (indexField m)))).complete
          ((modInverse a p).map fun v => .intReg d (BitVec.ofInt 32 v))) := by
  obtain ⟨hwf, -⟩ := wellFormed_onRegisters d i m
  have hm : ((s.writeX i (BitVec.ofInt 32 a)).writeX m (BitVec.ofInt 32 p)).x[m.val].toNat = p := by
    rw [State.x_writeX, if_pos rfl, toNat_ofInt_natCast hp]
  have hi : ((s.writeX i (BitVec.ofInt 32 a)).writeX m (BitVec.ofInt 32 p)).x[i.val].toInt = a := by
    rw [State.x_writeX, if_neg him.symm, State.x_writeX, if_pos rfl, toInt_ofInt h0 h1]
  have hexec := exec_modinv (((s.writeX i (BitVec.ofInt 32 a)).writeX m (BitVec.ofInt 32 p)).accept
    (encode (.modinv (indexField d) (indexField i) (indexField m)))) d i m
  rw [State.accept_x, hm, hi] at hexec
  have hload := (leaves_pseudoLI i a hr.1).trans (leaves_pseudoLI (s := s.writeX i (BitVec.ofInt 32 a)) m p hr.1)
  exact hload.trans (leaves_pseudoRUN hr hwf hexec)

/-- The sequence of add: both points, then PADD, which reads what was written. -/
theorem leaves_sequenceAdd {P1 P2 : Point} (d : RegIndex) {i j : RegIndex} (hr : s.ready) (hij : i ≠ j)
    (h1 : P1.inRange Config.curve = true) (h2 : P2.inRange Config.curve = true) :
    ∃ R, add Config.curve P1 P2 = .ok R ∧ Leaves s (sequenceAdd P1 P2 d i j) 9
      ((((s.writePt i P1).writePt j P2).accept
        (encode (.padd (indexField d) (indexField i) (indexField j)))).afterPoint d (PointReg.ofPoint R)) := by
  obtain ⟨-, hwf, -⟩ := wellFormed_onRegisters d i j
  obtain ⟨R, hR, -⟩ := add_inRange curve_P_prime (by decide) h1 h2
  obtain ⟨hpoint1, hin1⟩ := ofPoint_of_inRange h1
  obtain ⟨hpoint2, hin2⟩ := ofPoint_of_inRange h2
  have hi : ((s.writePt i P1).writePt j P2).pt[i.val] = PointReg.ofPoint P1 := by
    rw [State.pt_writePt, if_neg hij.symm, State.pt_writePt, if_pos rfl]
  have hj : ((s.writePt i P1).writePt j P2).pt[j.val] = PointReg.ofPoint P2 := by
    rw [State.pt_writePt, if_pos rfl]
  refine ⟨R, hR, ?_⟩
  have hload := (leaves_setPoint i P1 hr.1).trans (leaves_setPoint (s := s.writePt i P1) j P2 hr.1)
  refine hload.trans (leaves_pseudoRUN hr hwf (exec_padd_of_add d ?_ ?_ ?_))
  · rwa [State.accept_pt, hi]
  · rwa [State.accept_pt, hj]
  · rwa [State.accept_pt, hi, hj, hpoint1, hpoint2]

/-- The IV and key words are data registers. -/
theorem State.sameData.readReg_of_mem_keyRegs (h : s.sameData u) {q : WindowReg} (hq : q ∈ keyRegs) :
    s.readReg q = u.readReg q := by
  obtain ⟨-, -, hiv, hkey⟩ := h
  simp only [keyRegs, List.mem_cons, List.not_mem_nil, or_false] at hq
  rcases hq with rfl | rfl | rfl | rfl | rfl | rfl | rfl | rfl <;> simp only [State.readReg, hiv, hkey]

/-- The sequence of deriveSymmetricKey: KDF, then eight reads, which answer its words or, after a failure, the old ones. -/
theorem run_sequenceDeriveSymmetricKey {a : RegIndex} (hr : s.ready) (ht : s.env.turns = [])
    (hp : s.env.program = sequenceDeriveSymmetricKey a) : ∃ u, exec (.kdf (indexField a)) s = .next u ∧
      ∀ {n : Nat} (hn : n < keyRegs.length), ∃ t, Host.Core.run Sys2Proof.core (4 + n) s = .next t ∧
        t.env.response = some (.data (u.readReg keyRegs[n])) := by
  obtain ⟨-, -, -, hwf, -⟩ := wellFormed_onRegisters a a a
  have hsame : (s.accept (encode (.kdf (indexField a)))).sameData s := ⟨rfl, rfl, rfl, rfl⟩
  obtain ⟨t, u, ht', hu, hdata, -⟩ := commandsReadDataRegistersOnly (.kdf (indexField a)) _ _ hsame
  refine ⟨u, hu, fun {n} hn => ?_⟩
  obtain ⟨resp, hkdf⟩ := leaves_pseudoRUN hr hwf ht' pseudoGETKEY (n + 1) s.env.response
  obtain ⟨v, hreads, hresp⟩ := run_hostReads (exec_busy ht') keyRegs (resp := resp) hn
  have hs : s = s.hosting _ _ := State.eq_hosting ht hp
  have hsteps : 4 + n = n + 1 + 3 := by omega
  refine ⟨v, ?_, hresp.trans ?_⟩
  · rw [hsteps]
    exact (congrArg (runFor (n + 1 + 3)) hs).trans (hkdf.trans hreads)
  · rw [hdata.readReg_of_mem_keyRegs (List.getElem_mem hn)]

/-- Settles O58: each sequence piece by piece. -/
theorem operationSequencesReachTheirResults : Obligations.OperationSequencesReachTheirResults := by
  unfold Obligations.OperationSequencesReachTheirResults
  refine ⟨fun s a p d i m hr ht him h0 h1 hp hprog => ?_, fun s P1 P2 d i j hr ht hij h1 h2 hprog => ?_,
    fun s a hr ht hprog => ?_⟩
  · obtain ⟨resp, hrun⟩ := (leaves_sequenceModInverse d hr him h0 h1 hp).run ht hprog
    refine ⟨_, hrun, rfl, State.complete_busy _ _, fun v hv => ?_, fun e he => ?_⟩
    · obtain ⟨hv0, hvp, -⟩ := isInverse_of_modInverse hv
      rw [hv]
      have hd (w : Word) (x : Vector Word 4) : (x.set d.val w)[d.val] = w := Vector.getElem_set_self _
      refine ⟨(congrArg (fun w : Word => (w.toNat : Int)) (hd _ _)).trans ?_, rfl, hr.2⟩
      lift v to Nat using hv0
      rw [toNat_ofInt_natCast (by omega)]
    · rw [he]
      obtain rfl := eq_noInverseExists_of_modInverse he
      exact ⟨rfl, rfl, rfl⟩
  · obtain ⟨R, hR, hseq⟩ := leaves_sequenceAdd d hr hij h1 h2
    obtain ⟨resp, hrun⟩ := hseq.run ht hprog
    exact ⟨_, R, hrun, rfl, hR, Vector.getElem_set_self _, rfl, rfl, hr.2⟩
  · obtain ⟨u, hu, reads⟩ := run_sequenceDeriveSymmetricKey hr ht hprog
    have words : ∀ n : Fin 4, keyRegs[n.val]'(by simp [keyRegs]; omega) = .iv n ∧
        keyRegs[4 + n.val]'(by simp [keyRegs]; omega) = .key n := by decide
    refine ⟨u, hu, fun n => ⟨?_, ?_⟩⟩
    · obtain ⟨t, hrun, hresp⟩ := reads (n := n.val) (by simp [keyRegs]; omega)
      rw [(words n).1] at hresp
      exact ⟨t, hrun, hresp⟩
    · obtain ⟨t, hrun, hresp⟩ := reads (n := 4 + n.val) (by simp [keyRegs]; omega)
      rw [(words n).2] at hresp
      rw [← Nat.add_assoc] at hrun
      exact ⟨t, hrun, hresp⟩

end Sys2Proof.Machine
end
